-- ==== Sys2Proof/Word.lean ====
section
/-! DEFINITION. The words of the machine: bytes, 32-bit words, the three operand widths (00_scope R10), the
two sizes an operand, an address or the stack can have, and the 3-bit register numbers. -/

namespace Sys2Proof

/-- A byte: the smallest addressable unit (20_memory R100). -/
abbrev Byte := BitVec 8

/-- A 32-bit word: a general register cell, a linear address, an offset (00_scope R7). -/
abbrev Word := BitVec 32

/-- An operand width N (00_scope R10). -/
inductive Width where
  | b8
  | b16
  | b32
  deriving DecidableEq, Repr

/-- The width in bits. -/
@[reducible] def Width.bits : Width → Nat
  | .b8 => 8
  | .b16 => 16
  | .b32 => 32

/-- The width in bytes, N/8. -/
@[reducible] def Width.bytes : Width → Nat
  | .b8 => 1
  | .b16 => 2
  | .b32 => 4

/-- A size that is 16 or 32: the operand size OS, the address size AS, the stack size SSZ (00_scope R10). -/
inductive Sz where
  | s16
  | s32
  deriving DecidableEq, Repr

/-- The operand width a size stands for. -/
@[reducible] def Sz.width : Sz → Width
  | .s16 => .b16
  | .s32 => .b32

/-- The other of 16 and 32 (30_encoding R178, R179). -/
def Sz.other : Sz → Sz
  | .s16 => .s32
  | .s32 => .s16

/-- Whether an instruction form is marked `b` (N = 8) or `v` (N = OS) (30_encoding R178). -/
inductive OpW where
  | b
  | v
  deriving DecidableEq, Repr

/-- The value of a 3-bit field: a general, control or debug register number, or a `/n` (30_encoding R183). -/
inductive Num8 where
  | n0
  | n1
  | n2
  | n3
  | n4
  | n5
  | n6
  | n7
  deriving DecidableEq, Repr

end Sys2Proof
end

