-- ==== Sys2Proof/Config.lean ====
section
/-! DEFINITION. The values the spec leaves open (00_scope R16, 93_implementation_defined section 1), as constants
without a body: nothing in Lean can evaluate one or prove a value of it. Each is applied to the number of the draw
(State.draws), so that every execution draws afresh. Log entries 2 and 7. -/

namespace Sys2Proof

/-- The six status flags an instruction can leave open. -/
inductive StatusFlag where
  | cf
  | pf
  | af
  | zf
  | sf
  | ovf
  deriving DecidableEq, Repr

/-- `ANY_1` of a status flag in the given draw (U1 to U9). Free value. -/
opaque Config.freeFlag : Nat → StatusFlag → Bool

/-- `ANY_OS`, the BSF or BSR destination on a zero source, before truncation (U7). Free value. -/
opaque Config.freeWord : Nat → Word

/-- `PORT_IN(p, n)`: what the environment answers to a permitted port read (U12, 20_memory R150). Free value. -/
opaque Config.portIn : Nat → BitVec 16 → (w : Width) → BitVec w.bits

/-- `ANY_8` per byte of a page after `setPage(page, null)` (U10): the draw, then the address. Free value. -/
opaque Config.freeByte : Nat → Nat → Byte

/-- `TIMEOUT_EXPIRED` of one cycle (60_exceptions R682, U17). Free value. -/
opaque Config.timeoutExpired : Nat → Bool

end Sys2Proof
end

