-- ==== Sys2Proof/Syntax.lean ====
section
/-! DEFINITION. The instructions as syntax: the operand forms of 30_encoding sections 4 and 5, and the one
inductive Instr with a constructor (or several) for every mnemonic of spec/opcode_table.json. -/

namespace Sys2Proof

/-- The six segment registers, in the order of their numbers 0 to 5 (10_state R47). -/
inductive Seg where
  | es
  | cs
  | ss
  | ds
  | fs
  | gs
  deriving DecidableEq, Repr

/-- The two repeat prefixes: F3 is REP or REPE, F2 is REPNE (30_encoding R174). -/
inductive RepKind where
  | rep
  | repne
  deriving DecidableEq, Repr

/-- The sixteen condition codes, in the order of their numbers (43_control_transfer R481). -/
inductive Cond where
  | o
  | no
  | b
  | nb
  | z
  | nz
  | be
  | nbe
  | s
  | ns
  | p
  | np
  | l
  | nl
  | le
  | nle
  deriving DecidableEq, Repr

/-- The displacement of a 16-bit ModRM form: none for mod 0, one byte for mod 1, two for mod 2 (30_encoding R187). -/
inductive Disp16 where
  | none
  | d8 (v : BitVec 8)
  | d16 (v : BitVec 16)
  deriving DecidableEq, Repr

/-- The displacement of a 32-bit ModRM or SIB form (30_encoding R188, R189). -/
inductive Disp32 where
  | none
  | d8 (v : BitVec 8)
  | d32 (v : BitVec 32)
  deriving DecidableEq, Repr

/-- A memory operand as the decoder reads it from ModRM, SIB and displacement (30_encoding R186 to R189).
`rm`, `base` and `index` are the 3-bit fields; `index = n4` means no index. -/
inductive MemRef where
  /-- 16-bit addressing, row `rm` of the table of R187; `rm = n6` needs a displacement. -/
  | m16 (rm : Num8) (disp : Disp16)
  /-- 16-bit addressing, `mod = 0`, `rm = 6`: the displacement alone; also a 16-bit moffs (R195). -/
  | abs16 (off : BitVec 16)
  /-- 32-bit addressing without SIB; `base = n4` does not occur and `base = n5` needs a displacement. -/
  | m32 (base : Num8) (disp : Disp32)
  /-- 32-bit addressing, `mod = 0`, `rm = 5`: the displacement alone; also a 32-bit moffs (R195). -/
  | abs32 (off : BitVec 32)
  /-- SIB with a base; `base = n5` needs a displacement. -/
  | sib (base index : Num8) (scale : BitVec 2) (disp : Disp32)
  /-- SIB with `mod = 0` and `base = 5`: no base, a 32-bit displacement. -/
  | sibAbs (index : Num8) (scale : BitVec 2) (off : BitVec 32)
  deriving DecidableEq, Repr

/-- An r/m operand: a register for `mod = 3`, memory otherwise (30_encoding R184, R186). -/
inductive RM where
  | reg (r : Num8)
  | mem (m : MemRef)
  deriving DecidableEq, Repr

/-- An immediate of OS bits, `Iz` (30_encoding R196). -/
inductive Iz where
  | w (v : BitVec 16)
  | d (v : BitVec 32)
  deriving DecidableEq, Repr

/-- A moffs operand: an offset of AS bits (30_encoding R195). -/
inductive Moffs where
  | o16 (v : BitVec 16)
  | o32 (v : BitVec 32)
  deriving DecidableEq, Repr

/-- A far pointer in the instruction, `Ap` (30_encoding R196). -/
structure FarPtr where
  off : Iz
  sel : BitVec 16
  deriving DecidableEq, Repr

/-- A relative operand: `Jb` or `Jz` (30_encoding R196). -/
inductive Rel where
  | short (v : BitVec 8)
  | near (v : Iz)
  deriving DecidableEq, Repr

/-- The forms of ADD OR ADC SBB AND SUB XOR CMP (42_arithmetic_logic R400). -/
inductive AluForm where
  /-- base+0, base+1: `Eb,Gb` and `Ev,Gv`. -/
  | rmR (w : OpW) (rm : RM) (r : Num8)
  /-- base+2, base+3: `Gb,Eb` and `Gv,Ev`. -/
  | rRm (w : OpW) (r : Num8) (rm : RM)
  /-- base+4: `AL,Ib`. -/
  | accIb (ib : Byte)
  /-- base+5: `eAX,Iz`. -/
  | accIz (iz : Iz)
  /-- 80 and its other spelling 82: `Eb,Ib`. -/
  | ebIb (rm : RM) (ib : Byte)
  /-- 81: `Ev,Iz`. -/
  | evIz (rm : RM) (iz : Iz)
  /-- 83: `Ev,Ib`, the byte sign-extended. -/
  | evIb (rm : RM) (ib : Byte)
  deriving DecidableEq, Repr

/-- The forms of TEST (42_arithmetic_logic R409). -/
inductive TestForm where
  | rmR (w : OpW) (rm : RM) (r : Num8)
  | accIb (ib : Byte)
  | accIz (iz : Iz)
  | ebIb (rm : RM) (ib : Byte)
  | evIz (rm : RM) (iz : Iz)
  deriving DecidableEq, Repr

/-- The forms of INC and DEC (42_arithmetic_logic R410, R411). -/
inductive IncForm where
  | reg (r : Num8)
  | e (w : OpW) (rm : RM)
  deriving DecidableEq, Repr

/-- The general forms of MOV (41_data_movement R321 to R324). -/
inductive MovForm where
  | rmR (w : OpW) (rm : RM) (r : Num8)
  | rRm (w : OpW) (r : Num8) (rm : RM)
  | ebIb (rm : RM) (ib : Byte)
  | evIz (rm : RM) (iz : Iz)
  | rIb (r : Num8) (ib : Byte)
  | rIz (r : Num8) (iz : Iz)
  | accOff (w : OpW) (off : Moffs)
  | offAcc (w : OpW) (off : Moffs)
  deriving DecidableEq, Repr

/-- The forms of PUSH (41_data_movement R332 to R335). -/
inductive PushForm where
  | seg (s : Seg)
  | reg (r : Num8)
  | iz (v : Iz)
  | ib (v : Byte)
  | ev (rm : RM)
  deriving DecidableEq, Repr

/-- The general forms of POP (41_data_movement R336, R337). -/
inductive PopForm where
  | reg (r : Num8)
  | ev (rm : RM)
  deriving DecidableEq, Repr

/-- The forms of XCHG (41_data_movement R341, R342); `acc n0` is NOP and has its own constructor. -/
inductive XchgForm where
  | rmR (w : OpW) (rm : RM) (r : Num8)
  | acc (r : Num8)
  deriving DecidableEq, Repr

/-- The count operand of group 2 (42_arithmetic_logic R420). -/
inductive ShCount where
  | imm (ib : Byte)
  | one
  | cl
  deriving DecidableEq, Repr

/-- The count operand of SHLD and SHRD (42_arithmetic_logic R428). -/
inductive DShCount where
  | imm (ib : Byte)
  | cl
  deriving DecidableEq, Repr

/-- The immediate of the three-operand IMUL (42_arithmetic_logic R417). -/
inductive ImulImm where
  | iz (v : Iz)
  | ib (v : Byte)
  deriving DecidableEq, Repr

/-- The bit index of BT, BTS, BTR, BTC (42_arithmetic_logic R430). -/
inductive BitIdx where
  | reg (r : Num8)
  | imm (ib : Byte)
  deriving DecidableEq, Repr

/-- The port operand of IN and OUT (44_string_io R549, R550). -/
inductive PortArg where
  | imm (ib : Byte)
  | dx
  deriving DecidableEq, Repr

/-- The opcodes with a ModRM byte of which some encodings are illegal (30_encoding R203 to R206). -/
inductive UdOp where
  | bound
  | movFromSeg
  | lea
  | movToSeg
  | popRm
  | les
  | lds
  | movEbIb
  | movEvIz
  | grp4
  | grp5
  | grp6
  | grp7
  | grp8
  | lar
  | lsl
  | lss
  | lfs
  | lgs
  deriving DecidableEq, Repr

/-- An encoding that raises the invalid-opcode fault, as far as the decoder reads it (30_encoding R203, R205). -/
inductive UdForm where
  /-- one-byte opcode D6 -/
  | opD6
  /-- one-byte opcode F1 -/
  | opF1
  /-- coprocessor escape D8+k with its ModRM operand -/
  | esc (k : Num8) (reg : Num8) (rm : RM)
  /-- a second byte after 0F that 30_encoding R202 does not list -/
  | two (op : Byte)
  /-- an illegal ModRM encoding of an opcode -/
  | slot (op : UdOp) (reg : Num8) (rm : RM)
  deriving DecidableEq, Repr

/-- The instructions. A constructor stands for one mnemonic of spec/opcode_table.json (LAWS.json maps them);
its form argument tells the rows of that mnemonic apart. -/
inductive Instr where
  -- prefix bytes (30_encoding R174)
  | pfxEs
  | pfxCs
  | pfxSs
  | pfxDs
  | pfxFs
  | pfxGs
  | pfxOpSize
  | pfxAdSize
  | pfxLock
  | pfxRepne
  | pfxRep
  -- two-operand arithmetic and logic (42_arithmetic_logic R400 to R409)
  | add (f : AluForm)
  | or (f : AluForm)
  | adc (f : AluForm)
  | sbb (f : AluForm)
  | and (f : AluForm)
  | sub (f : AluForm)
  | xor (f : AluForm)
  | cmp (f : AluForm)
  | test (f : TestForm)
  -- one-operand arithmetic (R410 to R413)
  | inc (f : IncForm)
  | dec (f : IncForm)
  | not (w : OpW) (rm : RM)
  | neg (w : OpW) (rm : RM)
  -- multiply and divide (R414 to R419)
  | mul (w : OpW) (rm : RM)
  | imul (w : OpW) (rm : RM)
  | imul2 (r : Num8) (rm : RM)
  | imul3 (r : Num8) (rm : RM) (imm : ImulImm)
  | div (w : OpW) (rm : RM)
  | idiv (w : OpW) (rm : RM)
  -- shifts and rotates (R420 to R429)
  | rol (w : OpW) (rm : RM) (c : ShCount)
  | ror (w : OpW) (rm : RM) (c : ShCount)
  | rcl (w : OpW) (rm : RM) (c : ShCount)
  | rcr (w : OpW) (rm : RM) (c : ShCount)
  | shl (w : OpW) (rm : RM) (c : ShCount)
  | shr (w : OpW) (rm : RM) (c : ShCount)
  | sar (w : OpW) (rm : RM) (c : ShCount)
  | shld (rm : RM) (r : Num8) (c : DShCount)
  | shrd (rm : RM) (r : Num8) (c : DShCount)
  -- bit test and scan (R430 to R435)
  | bt (rm : RM) (i : BitIdx)
  | bts (rm : RM) (i : BitIdx)
  | btr (rm : RM) (i : BitIdx)
  | btc (rm : RM) (i : BitIdx)
  | bsf (r : Num8) (rm : RM)
  | bsr (r : Num8) (rm : RM)
  -- decimal and ASCII adjust (R436 to R441)
  | daa
  | das
  | aaa
  | aas
  | aam (ib : Byte)
  | aad (ib : Byte)
  -- single-flag instructions (R442 to R446)
  | clc
  | stc
  | cmc
  | cld
  | std
  -- moves (41_data_movement R321 to R329)
  | mov (f : MovForm)
  | movFromSeg (s : Seg) (rm : RM)
  | movToSeg (s : Seg) (rm : RM)
  | movFromCr (r n : Num8)
  | movToCr (n r : Num8)
  | movFromDr (r n : Num8)
  | movToDr (n r : Num8)
  | movzx (w : OpW) (r : Num8) (rm : RM)
  | movsx (w : OpW) (r : Num8) (rm : RM)
  | lea (r : Num8) (m : MemRef)
  -- stack (R332 to R340, R353, R354)
  | push (f : PushForm)
  | pop (f : PopForm)
  | popSeg (s : Seg)
  | pusha
  | pushad
  | popa
  | popad
  | enter (size : BitVec 16) (level : Byte)
  | leave
  -- exchange, translate, far-pointer loads (R341 to R344)
  | xchg (f : XchgForm)
  | nop
  | xlat
  | lds (r : Num8) (m : MemRef)
  | les (r : Num8) (m : MemRef)
  | lfs (r : Num8) (m : MemRef)
  | lgs (r : Num8) (m : MemRef)
  | lss (r : Num8) (m : MemRef)
  -- width conversions (R345, R346)
  | cbw
  | cwde
  | cwd
  | cdq
  -- flag transfers (R347 to R350)
  | lahf
  | sahf
  | pushf
  | pushfd
  | popf
  | popfd
  -- conditional byte set (R356)
  | seto (rm : RM)
  | setno (rm : RM)
  | setb (rm : RM)
  | setnb (rm : RM)
  | setz (rm : RM)
  | setnz (rm : RM)
  | setbe (rm : RM)
  | setnbe (rm : RM)
  | sets (rm : RM)
  | setns (rm : RM)
  | setp (rm : RM)
  | setnp (rm : RM)
  | setl (rm : RM)
  | setnl (rm : RM)
  | setle (rm : RM)
  | setnle (rm : RM)
  -- conditional jumps (43_control_transfer R482, R483)
  | jo (rel : Rel)
  | jno (rel : Rel)
  | jb (rel : Rel)
  | jnb (rel : Rel)
  | jz (rel : Rel)
  | jnz (rel : Rel)
  | jbe (rel : Rel)
  | jnbe (rel : Rel)
  | js (rel : Rel)
  | jns (rel : Rel)
  | jp (rel : Rel)
  | jnp (rel : Rel)
  | jl (rel : Rel)
  | jnl (rel : Rel)
  | jle (rel : Rel)
  | jnle (rel : Rel)
  -- jumps, calls, returns (R484 to R494)
  | jmp (rel : Rel)
  | jmpRm (rm : RM)
  | jmpFar (p : FarPtr)
  | jmpFarMem (m : MemRef)
  | call (rel : Iz)
  | callRm (rm : RM)
  | callFar (p : FarPtr)
  | callFarMem (m : MemRef)
  | ret
  | retImm (iw : BitVec 16)
  | retf
  | retfImm (iw : BitVec 16)
  | iret
  | iretd
  -- loops (R495 to R498)
  | loop (rel : BitVec 8)
  | loope (rel : BitVec 8)
  | loopne (rel : BitVec 8)
  | jcxz (rel : BitVec 8)
  -- software interrupts and checks (R499 to R502)
  | int (v : Byte)
  | int3
  | into
  | bound (r : Num8) (m : MemRef)
  -- strings (44_string_io R540 to R548)
  | movsb
  | movsw
  | movsd
  | cmpsb
  | cmpsw
  | cmpsd
  | scasb
  | scasw
  | scasd
  | lodsb
  | lodsw
  | lodsd
  | stosb
  | stosw
  | stosd
  | insb
  | insw
  | insd
  | outsb
  | outsw
  | outsd
  -- ports (R549, R550)
  | inp (w : OpW) (p : PortArg)
  | outp (w : OpW) (p : PortArg)
  -- system (45_system R581 to R608)
  | hlt
  | cli
  | sti
  | wait
  | arpl (rm : RM) (r : Num8)
  | sldt (rm : RM)
  | str (rm : RM)
  | lldt (rm : RM)
  | ltr (rm : RM)
  | sgdt (m : MemRef)
  | sidt (m : MemRef)
  | lgdt (m : MemRef)
  | lidt (m : MemRef)
  | smsw (rm : RM)
  | lmsw (rm : RM)
  | clts
  | rdmsr
  | wrmsr
  -- the invalid-opcode handler (R618, R619)
  | ud (f : UdForm)
  deriving DecidableEq, Repr

/-- Whether an instruction term is a prefix byte, after which the same instruction goes on (30_encoding R175). -/
def Instr.isPfx : Instr → Bool
  | .pfxEs | .pfxCs | .pfxSs | .pfxDs | .pfxFs | .pfxGs => true
  | .pfxOpSize | .pfxAdSize | .pfxLock | .pfxRepne | .pfxRep => true
  | _ => false

/-- The operand and address size the decoder works with (30_encoding R178, R179). -/
structure DecMode where
  os : Sz
  ads : Sz
  deriving DecidableEq, Repr

end Sys2Proof
end

