-- ==== Sys2Proof/Machine/State.lean ====
section
/-! DEFINITION. The state of the machine as plain data (10_state.md), the reasons a step stops, and the state right
after reset (10_state R71). -/

namespace Sys2Proof.Machine

/-- Eight 32-bit cells numbered by a 3-bit field: the general registers (10_state R30, R31), the control registers
(R53) or the debug registers (R57). -/
structure Bank where
  r0 : Word
  r1 : Word
  r2 : Word
  r3 : Word
  r4 : Word
  r5 : Word
  r6 : Word
  r7 : Word
  deriving DecidableEq, Repr, Inhabited

/-- The implemented bits of EFLAGS (10_state R40); the other bits are constants (R41), which `Eflags.toWord` in
Ops.lean supplies. `ovf` is OF and `ifl` is IF. Log entry 3. -/
structure Eflags where
  cf : Bool
  pf : Bool
  af : Bool
  zf : Bool
  sf : Bool
  tf : Bool
  ifl : Bool
  df : Bool
  ovf : Bool
  iopl : BitVec 2
  nt : Bool
  deriving DecidableEq, Repr, Inhabited

/-- A segment register: the selector and the cached base, limit and access rights (10_state R48, R55). -/
structure SegReg where
  sel : BitVec 16
  base : Word
  limit : Word
  acc : BitVec 12
  deriving DecidableEq, Repr, Inhabited

/-- The six segment registers (10_state R47). -/
structure Segs where
  es : SegReg
  cs : SegReg
  ss : SegReg
  ds : SegReg
  fs : SegReg
  gs : SegReg
  deriving DecidableEq, Repr, Inhabited

/-- GDTR or IDTR (10_state R51). -/
structure TableReg where
  base : Word
  limit : BitVec 16
  deriving DecidableEq, Repr, Inhabited

/-- The system registers: LDTR and TR (10_state R50), GDTR and IDTR (R51), control and debug registers (R53, R57),
and the sparse model-specific registers with their permissions (R58). -/
structure Sys where
  ldtr : SegReg
  tr : SegReg
  gdtr : TableReg
  idtr : TableReg
  cr : Bank
  dr : Bank
  msr : List (Nat × BitVec 64)
  msrPerm : List (Nat × BitVec 2)
  deriving DecidableEq, Repr, Inhabited

/-- The kind of a pending interrupt (10_state R59). -/
inductive IntKind where
  | software
  | fault
  deriving DecidableEq, Repr

/-- A PendingInterrupt record (10_state R59). -/
structure Pending where
  vector : Byte
  kind : IntKind
  hasErr : Bool
  restart : Bool
  err : Word
  deriving DecidableEq, Repr

/-- The pending slot and the pre-instruction EIP and CS (10_state R59, R60). -/
structure Intr where
  pending : Option Pending
  savedEip : Word
  savedCs : SegReg
  deriving DecidableEq, Repr, Inhabited

/-- The mode bitset that the prefixes of the current instruction accumulate (10_state R61; 30_encoding R175). -/
structure Pfx where
  seg : Option Seg
  opsz : Bool
  adsz : Bool
  lock : Bool
  rep : Option RepKind
  deriving DecidableEq, Repr, Inhabited

/-- The run-loop state (10_state R62), and whether a run is in progress (60_exceptions R680, R688; log entry 5). -/
structure Ctl where
  running : Bool
  halted : Bool
  reason : BitVec 8
  icount : Nat
  deriving DecidableEq, Repr, Inhabited

/-- Memory (10_state R63 to R65): for every address a data byte and an attribute byte, each a list in one canonical
form (`Sparse.wf` in Sparse.lean) of the bytes that are not 0, and the sticky `mem_invalid`. What an unlisted address
holds is 0: the spec's reset value of the attributes, log entry 1 for the data. -/
structure Memory where
  data : List Host.Cell
  attr : List Host.Cell
  invalid : Bool
  deriving DecidableEq, Repr, Inhabited

/-- An output event: a permitted port write (20_memory R150, R153). -/
structure PortEvent where
  port : BitVec 16
  size : Nat
  value : Word
  deriving DecidableEq, Repr

/-- The port space (10_state R67): permissions and access counters of the ports where they are not 0, and the output
events of the run, the oldest first. -/
structure Ports where
  perm : List (Nat × Byte)
  rd : List (Nat × Nat)
  wr : List (Nat × Nat)
  out : List PortEvent
  deriving DecidableEq, Repr, Inhabited

/-- The two instructions that consult the call/jump hook (43_control_transfer R504). -/
inductive CallKind where
  | call
  | jump
  deriving DecidableEq, Repr

/-- The launch parameters (92_eei_decisions section 2): no instruction changes them. `MEMIO` is `State.io`, and `INIT_MEM`
an argument of `State.launch`. -/
structure Launch where
  /-- `run_flags` (60_exceptions R680): bits 0 to 4 are TIMEOUT, MAX_INSTR, NO_EXEC_CODE, TIGHT_LOOP, NO_VALID_CODE. -/
  runFlags : BitVec 5
  /-- `MAX_INSTR` (60_exceptions R682). -/
  maxInstr : Nat
  /-- Whether `INTR_HOOK` is installed (60_exceptions R691). What it answers is `Config.intrHook`. Log entry 8. -/
  intrHook : Bool
  /-- Whether `CODE_CHECK` is installed (60_exceptions R692). What it answers is `Config.codeCheck`. Log entry 7. -/
  codeCheck : Bool
  /-- Whether `TIGHT_LOOP` is given (60_exceptions R682); not given, it is never true. It is `Config.tightLoop`. Log
  entry 7. -/
  tightLoop : Bool
  /-- Whether `CALLJMP_HOOK` is installed (43_control_transfer R504); not installed, it is defined nowhere. It is
  `Config.callJmpHook`. Log entry 9. -/
  callJmpHook : Bool
  /-- `SS_DEFAULT_ON_INDEX_EBP` (30_encoding R190). -/
  ssDefaultOnIndexEbp : Bool
  /-- `ROT_FULL_UPDATES_CF` (40_alu_primitives R274, R275). -/
  rotFullUpdatesCf : Bool
  /-- `MAX_INSN_BYTES` (30_encoding R173). -/
  maxInsnBytes : Option Nat
  deriving DecidableEq, Repr, Inhabited

/-- The state of the machine. `io` is `MEMIO`, which an instance has from its launch on: none is the default paged
memory; some number says that a replacement handler answers every access (20_memory R124), and is the handler's own
state (log entry 10). `draws` counts the free values drawn (00_scope R16; log entry 2). -/
structure State where
  regs : Bank
  eip : Word
  flags : Eflags
  segs : Segs
  sys : Sys
  intr : Intr
  pfx : Pfx
  ctl : Ctl
  mem : Memory
  io : Option Nat
  ports : Ports
  draws : Nat
  cfg : Launch
  deriving DecidableEq, Repr, Inhabited

/-- The reasons a step stops with a fault. Safe, all of them: the machine takes no step there. -/
inductive Fault where
  /-- `step` raises it when no run is in progress: the run has ended (60_exceptions R681, R688) and only the host can
  start another. The argument is the reason mask that `run` returned. Safe. -/
  | runEnded (reason : BitVec 8)
  deriving DecidableEq, Repr

/-- The reasons the model gives a step no meaning. -/
inductive Refusal where
  /-- An instruction without a meaning in this model, by its mnemonic; no arm of `exec` answers it. Safe. -/
  | notModelled (mnemonic : String)
  /-- `eip_runs_off_segment`: the fetch raises it when EIP would be incremented past the top of the offset space
  (10_state R38). Safe: the spec asks a model to refuse. -/
  | eipRunsOffSegment
  /-- `insn_too_long`: the fetch raises it when `MAX_INSN_BYTES` is set and the instruction is longer (30_encoding
  R173). Safe: the spec allows a model to refuse. -/
  | insnTooLong
  /-- The decoder asked for more bytes than the longest instruction has (30_encoding R173, R171). The fetch would raise
  it; no list of eleven bytes makes it do so. Safe. -/
  | decodeTruncated
  deriving DecidableEq, Repr

/-- What a step, an instruction's meaning and the dispatch answer. -/
abbrev Out := Host.Outcome State Fault Refusal

/-! ## Reset (10_state R71) -/

/-- Eight cells of 0. -/
def Bank.zero : Bank := ⟨0, 0, 0, 0, 0, 0, 0, 0⟩

/-- EFLAGS after reset: 0x00000002 (10_state R42). -/
def Eflags.reset : Eflags :=
  { cf := false, pf := false, af := false, zf := false, sf := false, tf := false, ifl := false, df := false,
    ovf := false, iopl := 0, nt := false }

/-- CS after reset (10_state R48). -/
def SegReg.resetCode : SegReg := { sel := 0, base := 0, limit := 0x0000FFFF, acc := 0x09B }

/-- ES, SS, DS, FS, GS after reset (10_state R48). -/
def SegReg.resetData : SegReg := { sel := 0, base := 0, limit := 0x0000FFFF, acc := 0x093 }

/-- LDTR and TR after reset (10_state R50). -/
def SegReg.resetSystem : SegReg := { sel := 0, base := 0, limit := 0x0000FFFF, acc := 0x000 }

/-- GDTR and IDTR after reset (10_state R51). -/
def TableReg.reset : TableReg := { base := 0, limit := 0xFFFF }

/-- PFX all clear (10_state R61). -/
def Pfx.clear : Pfx := { seg := none, opsz := false, adsz := false, lock := false, rep := none }

/-- The launch parameters at their defaults (92_eei_decisions section 2); `run_flags` and `MAX_INSTR` have none and
are 0 (log entry 6). -/
def Launch.defaults : Launch :=
  { runFlags := 0, maxInstr := 0, intrHook := false, codeCheck := false, tightLoop := false, callJmpHook := false,
    ssDefaultOnIndexEbp := false, rotFullUpdatesCf := false, maxInsnBytes := none }

/-- The machine right after reset (10_state R71, 70_reset_and_hazards R711) under launch parameters; `memIo` is
`MEMIO`, `initMem` is `INIT_MEM`, the data bytes that are not 0, and every attribute byte is 0 (00_scope R8, 10_state
R66, 20_memory R124). -/
def State.launch (c : Launch) (memIo : Option Nat) (initMem : List Host.Cell) : State :=
  { regs := Bank.zero
    eip := 0
    flags := Eflags.reset
    segs := { es := SegReg.resetData, cs := SegReg.resetCode, ss := SegReg.resetData, ds := SegReg.resetData,
              fs := SegReg.resetData, gs := SegReg.resetData }
    sys := { ldtr := SegReg.resetSystem, tr := SegReg.resetSystem, gdtr := TableReg.reset, idtr := TableReg.reset,
             cr := Bank.zero, dr := Bank.zero, msr := [], msrPerm := [] }
    intr := { pending := none, savedEip := 0, savedCs := SegReg.resetCode }
    pfx := Pfx.clear
    ctl := { running := true, halted := false, reason := 0, icount := 0 }
    mem := { data := initMem, attr := [], invalid := false }
    io := memIo
    ports := { perm := [], rd := [], wr := [], out := [] }
    draws := 0
    cfg := c }

/-- The machine right after reset, with the launch parameters at their defaults and nothing listed in memory: what an
unlisted data byte holds is 0 (log entry 1). -/
def State.reset : State := State.launch Launch.defaults none []

end Sys2Proof.Machine
end

