-- ==== Sys2Proof/Machine/Sparse.lean ====
section
/-! DEFINITION. Sparse maps from addresses, port numbers and MSR indices, as lists in one canonical form: keys
strictly rising, no entry equal to what an unlisted key holds. -/

namespace Sys2Proof.Machine

variable {α : Type} [DecidableEq α]

/-- What a key holds; `d` where the list has no entry. -/
def Sparse.get (d : α) : List (Nat × α) → Nat → α
  | [], _ => d
  | (k, v) :: t, a => if k = a then v else Sparse.get d t a

/-- Give a key a value, keeping the canonical form: the default removes the entry. -/
def Sparse.set (d : α) : List (Nat × α) → Nat → α → List (Nat × α)
  | [], a, v => if v = d then [] else [(a, v)]
  | (k, w) :: t, a, v =>
    if k < a then (k, w) :: Sparse.set d t a v
    else if k = a then (if v = d then t else (a, v) :: t)
    else if v = d then (k, w) :: t else (a, v) :: (k, w) :: t

/-- The canonical form from key `lo` on, with every key below `bound`. -/
def Sparse.wfFrom (d : α) (bound lo : Nat) : List (Nat × α) → Bool
  | [] => true
  | (k, v) :: t => decide (lo ≤ k) && decide (k < bound) && decide (v ≠ d) && Sparse.wfFrom d bound (k + 1) t

/-- The canonical form of a sparse map with keys below `bound`. -/
def Sparse.wf (d : α) (bound : Nat) (l : List (Nat × α)) : Bool := Sparse.wfFrom d bound 0 l

/-- The memory's two lists are in canonical form. -/
def Memory.wf (m : Memory) : Bool := Sparse.wf 0 (2 ^ 32) m.data && Sparse.wf 0 (2 ^ 32) m.attr

/-- The port space's lists are in canonical form. -/
def Ports.wf (p : Ports) : Bool :=
  Sparse.wf 0 (2 ^ 16) p.perm && Sparse.wf 0 (2 ^ 16) p.rd && Sparse.wf 0 (2 ^ 16) p.wr

/-- The MSR lists are in canonical form. -/
def Sys.wf (y : Sys) : Bool := Sparse.wf 0 (2 ^ 32) y.msr && Sparse.wf 0 (2 ^ 32) y.msrPerm

/-- Every sparse map of the state is in canonical form. -/
def State.wf (s : State) : Bool := s.mem.wf && s.ports.wf && s.sys.wf

/-- The memory is the default paged subsystem of 20_memory, which no handler replaces (R124), in canonical form. -/
def State.paged (s : State) : Bool := s.io.isNone && s.mem.wf

end Sys2Proof.Machine
end

