-- ==== Sys2Proof/Machine/Hooks.lean ====
section
/-! DEFINITION. The host's code that takes part in a step (00_scope R8; 92_eei_decisions section 2, D40; 60_exceptions
R690; 20_memory R124), as constants without a body: whatever one answers is possible. `Launch` and `State.io` say which
are installed, by default none. The state holds the number of draws, so that two calls need not answer alike. -/

namespace Sys2Proof.Machine

/-- What an installed `INTR_HOOK` answers: whether it handled the interrupt, whether it set CS or EIP itself, and the
state it leaves (60_exceptions R690, R691; log entry 8). -/
structure HookAnswer where
  handled : Bool
  moved : Bool
  state : State
  deriving DecidableEq, Repr, Inhabited

/-- The three kinds of access (20_memory R111). -/
inductive Access where
  | read
  | write
  | fetch
  deriving DecidableEq, Repr

/-- What a memory-I/O handler answers to one access (20_memory R124): the value behind `valuePtr`, the error flag, on a
refused fetch whether it is `noexec` rather than `novalid` (60_exceptions R684), and the state it leaves, its own state
among it (60_exceptions R690). -/
structure IoAnswer where
  value : Word
  error : Bool
  noexec : Bool
  state : State
  deriving DecidableEq, Repr, Inhabited

end Sys2Proof.Machine

namespace Sys2Proof

open Sys2Proof.Machine

/-- `INTR_HOOK` (60_exceptions R691, U18). Free value. -/
opaque Config.intrHook : Byte → IntKind → State → HookAnswer

/-- `CODE_CHECK`: whether the run is to stop, and the state it leaves (60_exceptions R692, R690, U17). Free value. -/
opaque Config.codeCheck : State → Bool × State

/-- `CALLJMP_HOOK`: none where it is not defined, else the state it leaves (43_control_transfer R504, U18). Free
value. -/
opaque Config.callJmpHook : CallKind → Word → State → Option State

/-- `TIGHT_LOOP` (60_exceptions R682, U17). Free value. -/
opaque Config.tightLoop : State → Bool

/-- `MEMIO`, the handler of one access: its type and width, its address, the value written (0 for a read or a fetch),
and the state in which it is called (20_memory R124, 60_exceptions R690, U18; log entry 10). Free value. -/
opaque Config.memIo : Access → Width → Word → Word → State → IoAnswer

end Sys2Proof

namespace Sys2Proof.Machine

/-- Whether no host code takes part in a step: no hook and the default memory (60_exceptions R690). -/
def State.noHooks (s : State) : Bool :=
  !s.cfg.intrHook && !s.cfg.codeCheck && !s.cfg.callJmpHook && s.io.isNone

/-- The state in which the core resumes after host code called in `s` left `t` (60_exceptions R690): the launch
parameters, the number of draws and the run in progress are no state of the core, a memory handler is installed or not
for good, and a `t` that is not in canonical form is no state, so that it counts as nothing changed. -/
def State.resume (s t : State) : State :=
  let u := { t with
    cfg := s.cfg
    draws := s.draws
    ctl := { t.ctl with running := s.ctl.running }
    io := s.io.map fun n => t.io.getD n }
  if u.wf then u else s

end Sys2Proof.Machine
end

