-- ==== Sys2Proof/Machine/Ops.lean ====
section
/-! DEFINITION. The named operations over the state: field updates, the register views, sizes and mode, memory,
segments and descriptors, the stack, ports, raising an exception, taking it and the flag image of its return. -/

namespace Sys2Proof

/-! ## Sizes and register numbers -/

/-- The cell an 8-bit register number is a view of: 4 to 7 are the second bytes of cells 0 to 3 (10_state R33). -/
def Num8.cell8 : Num8 → Num8
  | .n0 => .n0
  | .n1 => .n1
  | .n2 => .n2
  | .n3 => .n3
  | .n4 => .n0
  | .n5 => .n1
  | .n6 => .n2
  | .n7 => .n3

/-- Whether an 8-bit register number names a second byte: AH, CH, DH, BH (10_state R33). -/
def Num8.high8 : Num8 → Bool
  | .n0 => false
  | .n1 => false
  | .n2 => false
  | .n3 => false
  | .n4 => true
  | .n5 => true
  | .n6 => true
  | .n7 => true

/-- `N` of an instruction form: 8 for a `b` form, OS for a `v` form (30_encoding R178). -/
def OpW.width (w : OpW) (o : Sz) : Width :=
  match w with
  | .b => .b8
  | .v => o.width

/-- A size in bytes. -/
def Sz.bytes : Sz → Nat
  | .s16 => 2
  | .s32 => 4

/-- `trunc_AS` or `trunc_SSZ` of a 32-bit value, zero-extended again (00_scope R11). -/
def Sz.trunc (z : Sz) (v : Word) : Word :=
  match z with
  | .s16 => v &&& 0x0000FFFF
  | .s32 => v

end Sys2Proof

namespace Sys2Proof.Machine

/-! ## Field updates -/

def State.setRegs (v : Bank) (s : State) : State := { s with regs := v }
def State.setEip (v : Word) (s : State) : State := { s with eip := v }
def State.setFlags (v : Eflags) (s : State) : State := { s with flags := v }
def State.setSegs (v : Segs) (s : State) : State := { s with segs := v }
def State.setSys (v : Sys) (s : State) : State := { s with sys := v }
def State.setIntr (v : Intr) (s : State) : State := { s with intr := v }
def State.setPfx (v : Pfx) (s : State) : State := { s with pfx := v }
def State.setCtl (v : Ctl) (s : State) : State := { s with ctl := v }
def State.setMem (v : Memory) (s : State) : State := { s with mem := v }
def State.setPorts (v : Ports) (s : State) : State := { s with ports := v }
def State.setDraws (v : Nat) (s : State) : State := { s with draws := v }

/-! ## Register views (10_state R30 to R34) -/

/-- `R32[i]`, `CR[i]`, `DR[i]`. -/
def Bank.get (b : Bank) : Num8 → Word
  | .n0 => b.r0
  | .n1 => b.r1
  | .n2 => b.r2
  | .n3 => b.r3
  | .n4 => b.r4
  | .n5 => b.r5
  | .n6 => b.r6
  | .n7 => b.r7

/-- Write one cell. -/
def Bank.set (b : Bank) (i : Num8) (v : Word) : Bank :=
  match i with
  | .n0 => { b with r0 := v }
  | .n1 => { b with r1 := v }
  | .n2 => { b with r2 := v }
  | .n3 => { b with r3 := v }
  | .n4 => { b with r4 := v }
  | .n5 => { b with r5 := v }
  | .n6 => { b with r6 := v }
  | .n7 => { b with r7 := v }

/-- `R16[i]`: bits 15:0 of the cell (10_state R32). -/
def Bank.r16 (b : Bank) (i : Num8) : BitVec 16 := (b.get i).extractLsb' 0 16

/-- Write `R16[i]`, keeping bits 31:16 (10_state R32). -/
def Bank.setR16 (b : Bank) (i : Num8) (v : BitVec 16) : Bank := b.set i ((b.get i).extractLsb' 16 16 ++ v)

/-- `R8[i]` (10_state R33). -/
def Bank.r8 (b : Bank) (i : Num8) : Byte :=
  if Num8.high8 i then (b.get (Num8.cell8 i)).extractLsb' 8 8 else (b.get (Num8.cell8 i)).extractLsb' 0 8

/-- Write `R8[i]`, keeping the cell's other 24 bits (10_state R33). -/
def Bank.setR8 (b : Bank) (i : Num8) (v : Byte) : Bank :=
  let c := b.get (Num8.cell8 i)
  b.set (Num8.cell8 i)
    (if Num8.high8 i then c.extractLsb' 16 16 ++ v ++ c.extractLsb' 0 8 else c.extractLsb' 8 24 ++ v)

/-- `Rn(N, i)` (00_scope R12). -/
def Bank.rn (b : Bank) (w : Width) (i : Num8) : BitVec w.bits :=
  match w with
  | .b8 => b.r8 i
  | .b16 => b.r16 i
  | .b32 => b.get i

/-- `Rn(N, i) <- v`: no bit outside the register changes (10_state R34). -/
def Bank.setRn (b : Bank) (w : Width) (i : Num8) (v : BitVec w.bits) : Bank :=
  match w, v with
  | .b8, v => b.setR8 i v
  | .b16, v => b.setR16 i v
  | .b32, v => b.set i v

/-- Write `Rn(N, i)` of the state. -/
def State.setReg (w : Width) (i : Num8) (v : BitVec w.bits) (s : State) : State := s.setRegs (s.regs.setRn w i v)

/-- `SEG[g]`. -/
def Segs.get (b : Segs) : Seg → SegReg
  | .es => b.es
  | .cs => b.cs
  | .ss => b.ss
  | .ds => b.ds
  | .fs => b.fs
  | .gs => b.gs

/-- Write `SEG[g]`. -/
def Segs.set (b : Segs) (g : Seg) (v : SegReg) : Segs :=
  match g with
  | .es => { b with es := v }
  | .cs => { b with cs := v }
  | .ss => { b with ss := v }
  | .ds => { b with ds := v }
  | .fs => { b with fs := v }
  | .gs => { b with gs := v }

/-! ## Sizes, mode and privilege -/

/-- The D/B bit of a cached segment, `acc[10]` (10_state R52, R55). -/
def SegReg.size (g : SegReg) : Sz := if g.acc.getLsbD 10 then .s32 else .s16

/-- `DEF` (10_state R52). -/
def State.defSz (s : State) : Sz := s.segs.cs.size

/-- `SSZ` (10_state R52). -/
def State.ssz (s : State) : Sz := s.segs.ss.size

/-- `OS` (30_encoding R178). -/
def State.osz (s : State) : Sz := if s.pfx.opsz then s.defSz.other else s.defSz

/-- `AS` (30_encoding R179). -/
def State.asz (s : State) : Sz := if s.pfx.adsz then s.defSz.other else s.defSz

/-- The sizes the decoder works with. -/
def State.decMode (s : State) : DecMode := ⟨s.osz, s.asz⟩

/-- `PE`: protected mode (10_state R54). -/
def State.pe (s : State) : Bool := s.sys.cr.r0.getLsbD 0

/-- `CPL` (10_state R56). -/
def State.cpl (s : State) : BitVec 2 := if s.pe then s.segs.cs.sel.extractLsb' 0 2 else 0

/-! ## EFLAGS as a word (10_state R40, R41; 41_data_movement R352) -/

/-- EFLAGS as the program sees it: bit 1 reads 1, bits 3, 5, 15 and 31:16 read 0 (10_state R40, R41). -/
def Eflags.toWord (f : Eflags) : Word :=
  0#17 ++ BitVec.ofBool f.nt ++ f.iopl ++ BitVec.ofBool f.ovf ++ BitVec.ofBool f.df ++ BitVec.ofBool f.ifl ++
    BitVec.ofBool f.tf ++ BitVec.ofBool f.sf ++ BitVec.ofBool f.zf ++ 0#1 ++ BitVec.ofBool f.af ++ 0#1 ++
    BitVec.ofBool f.pf ++ 1#1 ++ BitVec.ofBool f.cf

/-- `WriteFlags(v, N)` with the mode, CPL and IOPL the mask is computed from (41_data_movement R352). -/
def Eflags.write (f : Eflags) (pe : Bool) (cpl iopl : BitVec 2) (v : Word) : Eflags :=
  { cf := v.getLsbD 0, pf := v.getLsbD 2, af := v.getLsbD 4, zf := v.getLsbD 6, sf := v.getLsbD 7,
    tf := v.getLsbD 8,
    ifl := if pe && decide (iopl < cpl) then f.ifl else v.getLsbD 9,
    df := v.getLsbD 10, ovf := v.getLsbD 11,
    iopl := if pe && decide (cpl ≠ 0) then f.iopl else v.extractLsb' 12 2,
    nt := v.getLsbD 14 }

/-- The flags after `WriteFlags(v, N)` in the state. -/
def State.flagsFrom (s : State) (v : Word) : Eflags := s.flags.write s.pe s.cpl s.flags.iopl v

/-! ## Memory (20_memory R110 to R118) -/

/-- The attribute bits an access needs: PERM_R and VALID; PERM_W; PERM_X and VALID (20_memory R111, 10_state R64). -/
def Access.need : Access → Byte
  | .read => 0x09
  | .write => 0x02
  | .fetch => 0x0C

/-- The attribute bits a permitted access sets: ACC_R; ACC_W and VALID; ACC_X (20_memory R113 to R115). -/
def Access.mark : Access → Byte
  | .read => 0x10
  | .write => 0x28
  | .fetch => 0x40

/-- `MEM[a].data`. -/
def Memory.dataAt (m : Memory) (a : Word) : Byte := Sparse.get 0 m.data a.toNat

/-- `MEM[a].attr`. -/
def Memory.attrAt (m : Memory) (a : Word) : Byte := Sparse.get 0 m.attr a.toNat

/-- The permission nibble of a byte, `MEM[a].attr[3:0]` (10_state R64). -/
def Memory.perms (m : Memory) (a : Word) : Byte := m.attrAt a &&& 0x0F

/-- Whether an access to one byte is permitted (20_memory R112). -/
def Memory.permitted (m : Memory) (k : Access) (a : Word) : Bool := m.attrAt a &&& k.need == k.need

/-- Write `MEM[a].attr`. -/
def Memory.setAttr (m : Memory) (a : Word) (v : Byte) : Memory := { m with attr := Sparse.set 0 m.attr a.toNat v }

/-- Write `MEM[a].data`. -/
def Memory.setData (m : Memory) (a : Word) (v : Byte) : Memory := { m with data := Sparse.set 0 m.data a.toNat v }

/-- What an access to one byte does to its attribute byte and to `mem_invalid` (20_memory R113 to R115, R118). -/
def Memory.touch (m : Memory) (k : Access) (a : Word) : Memory :=
  if m.permitted k a then m.setAttr a (m.attrAt a ||| k.mark)
  else { m.setAttr a (m.attrAt a ||| 0x80) with invalid := true }

/-- The byte a read returns: the data, or the sentinel 0xFF when refused (20_memory R113). -/
def Memory.readByte (m : Memory) (a : Word) : Byte := if m.permitted .read a then m.dataAt a else 0xFF

/-- The byte a fetch returns (20_memory R115). -/
def Memory.fetchByte (m : Memory) (a : Word) : Byte := if m.permitted .fetch a then m.dataAt a else 0xFF

/-- The write of one byte; a refused one changes no data (20_memory R114). -/
def Memory.writeByte (m : Memory) (a : Word) (v : Byte) : Memory :=
  if m.permitted .write a then (m.touch .write a).setData a v else m.touch .write a

/-- The `n` linear addresses from `a` on, modulo 2^32 (20_memory R105, R116). -/
def span : Nat → Word → List Word
  | 0, _ => []
  | n + 1, a => a :: span n (a + 1)

/-- The same access to several bytes, in order (20_memory R116). -/
def Memory.touchAll (m : Memory) (k : Access) : List Word → Memory
  | [] => m
  | a :: as => (m.touch k a).touchAll k as

/-- The writes of several bytes, in order (20_memory R116). -/
def Memory.writeAll (m : Memory) : List (Word × Byte) → Memory
  | [] => m
  | (a, v) :: r => (m.writeByte a v).writeAll r

/-- The value `MemRead(a, n)` returns, little-endian (20_memory R100, R116). -/
def Memory.val (m : Memory) (w : Width) (a : Word) : BitVec w.bits :=
  match w with
  | .b8 => m.readByte a
  | .b16 => m.readByte (a + 1) ++ m.readByte a
  | .b32 => m.readByte (a + 1 + 1 + 1) ++ m.readByte (a + 1 + 1) ++ m.readByte (a + 1) ++ m.readByte a

/-- The `ok` of `MemRead(a, n)` (20_memory R116). -/
def Memory.ok (m : Memory) (w : Width) (a : Word) : Bool := (span w.bytes a).all (m.permitted .read)

/-- The effect of `MemRead(a, n)`. -/
def Memory.touchRead (m : Memory) (w : Width) (a : Word) : Memory := m.touchAll .read (span w.bytes a)

/-- The bytes of a value, the least significant first (20_memory R100). -/
def leBytes (w : Width) (v : BitVec w.bits) : List Byte :=
  match w, v with
  | .b8, v => [v]
  | .b16, v => [v.extractLsb' 0 8, v.extractLsb' 8 8]
  | .b32, v => [v.extractLsb' 0 8, v.extractLsb' 8 8, v.extractLsb' 16 8, v.extractLsb' 24 8]

/-- `MemWrite(a, n, v)` (20_memory R114, R116). -/
def Memory.store (m : Memory) (w : Width) (a : Word) (v : BitVec w.bits) : Memory :=
  m.writeAll ((span w.bytes a).zip (leBytes w v))

/-- Which permission a refused `MemFetch(a, 1)` found missing: true for `noexec`, false for `novalid`; none when it is
permitted (20_memory R115). -/
def Memory.fetchRefused (m : Memory) (a : Word) : Option Bool :=
  if m.permitted .fetch a then none else some (m.attrAt a &&& 0x04 == 0)

/-! ## Accesses: the paged memory, or the handler that replaces it (20_memory R124)

A handler is called at each access and acts there and nowhere else: it is handed the state as it is, and the core goes
on in the state it leaves (60_exceptions R690; log entry 10). -/

/-- The state in which the core goes on after the handler has been called for an access (60_exceptions R690). -/
def State.asked (k : Access) (w : Width) (a v : Word) (s : State) : State := s.resume (Config.memIo k w a v s).state

/-- The value `MemRead(a, n)` returns (20_memory R110, R124). -/
def State.memVal (s : State) (w : Width) (a : Word) : BitVec w.bits :=
  match s.io with
  | none => s.mem.val w a
  | some _ => (Config.memIo .read w a 0 s).value.setWidth w.bits

/-- The `ok` of `MemRead(a, n)` (20_memory R110, R124). -/
def State.memOk (s : State) (w : Width) (a : Word) : Bool :=
  match s.io with
  | none => s.mem.ok w a
  | some _ => !(Config.memIo .read w a 0 s).error

/-- The effect of `MemRead(a, n)` (20_memory R110, R124). -/
def State.memTouch (w : Width) (a : Word) (s : State) : State :=
  match s.io with
  | none => s.setMem (s.mem.touchRead w a)
  | some _ => s.asked .read w a 0

/-- `MemWrite(a, n, v)` (20_memory R110, R124); no instruction looks at its `ok`. -/
def State.memStore (w : Width) (a : Word) (v : BitVec w.bits) (s : State) : State :=
  match s.io with
  | none => s.setMem (s.mem.store w a v)
  | some _ => s.asked .write w a (v.setWidth 32)

/-- Whether a `MemFetch(a, 1)` is refused, and then whether as `noexec` (20_memory R115, R124). -/
def State.fetchRefused (s : State) (a : Word) : Option Bool :=
  match s.io with
  | none => s.mem.fetchRefused a
  | some _ =>
    let r := Config.memIo .fetch .b8 a 0 s
    if r.error then some r.noexec else none

/-- The byte `MemFetch(a, 1)` gives the decoder, the sentinel 0xFF when refused (20_memory R115, R124; 60_exceptions
R684). -/
def State.fetchVal (s : State) (a : Word) : Byte :=
  match s.io with
  | none => s.mem.fetchByte a
  | some _ =>
    let r := Config.memIo .fetch .b8 a 0 s
    if r.error then 0xFF else r.value.setWidth 8

/-- The effect of `MemFetch(a, 1)` (20_memory R115, R124). -/
def State.fetchTouch (a : Word) (s : State) : State :=
  match s.io with
  | none => s.setMem (s.mem.touch .fetch a)
  | some _ => s.asked .fetch .b8 a 0

/-- The linear address of an offset in a segment (20_memory R103). -/
def State.lin (s : State) (g : Seg) (off : Word) : Word := (s.segs.get g).base + off

/-- The value `ReadSeg(g, off, n)` returns (00_scope R13). -/
def State.segVal (s : State) (w : Width) (g : Seg) (off : Word) : BitVec w.bits := s.memVal w (s.lin g off)

/-- The effect of `ReadSeg(g, off, n)`. -/
def State.segTouch (w : Width) (g : Seg) (off : Word) (s : State) : State := s.memTouch w (s.lin g off)

/-- `WriteSeg(g, off, n, v)` (00_scope R13). -/
def State.segStore (w : Width) (g : Seg) (off : Word) (v : BitVec w.bits) (s : State) : State :=
  s.memStore w (s.lin g off) v

/-! ## The stack (41_data_movement R330, R331) -/

/-- The stack pointer by SSZ, zero-extended. -/
def State.sp (s : State) : Word := s.ssz.trunc s.regs.r4

/-- Write the stack pointer of a size: with 16 bits ESP[31:16] is kept. -/
def Bank.withSp (b : Bank) (z : Sz) (v : Word) : Bank :=
  match z with
  | .s16 => b.setR16 .n4 (v.setWidth 16)
  | .s32 => b.set .n4 v

/-- Write the stack pointer of size SSZ. -/
def State.withSp (s : State) (v : Word) : Bank := s.regs.withSp s.ssz v

/-- `StackAdjust(k)`. -/
def State.adjustSp (k : Word) (s : State) : State := s.setRegs (s.withSp (s.sp + k))

/-- The stack offset a push of this width stores at (41_data_movement R330). -/
def State.pushOff (s : State) (w : Width) : Word := s.ssz.trunc (s.sp - BitVec.ofNat 32 w.bytes)

/-- `Push(N, v)`: the store, then the stack pointer (41_data_movement R330). -/
def State.push (w : Width) (v : BitVec w.bits) (s : State) : State :=
  let t := s.segStore w .ss (s.pushOff w) v
  t.setRegs (t.regs.withSp s.ssz (s.pushOff w))

/-- The value `Pop(N)` and `StackTop(N)` return (41_data_movement R331). -/
def State.top (s : State) (w : Width) : BitVec w.bits := s.segVal w .ss s.sp

/-- The effect of `Pop(N)`: the read, then the stack pointer (41_data_movement R331). -/
def State.popped (w : Width) (s : State) : State :=
  let t := s.segTouch w .ss s.sp
  t.setRegs (t.regs.withSp s.ssz (s.ssz.trunc t.regs.r4 + BitVec.ofNat 32 w.bytes))

/-! ## Raising (60_exceptions R645, R650, R651) -/

/-- The exceptions and software interrupts the core raises (60_exceptions R645). -/
inductive Exn where
  | de
  | br
  | ud
  | gp (e : Word)
  | sw (v : Byte)
  deriving DecidableEq, Repr

/-- The PendingInterrupt of an exception: its row of the table of 60_exceptions R645. -/
def Exn.pending : Exn → Pending
  | .de => { vector := 0, kind := .fault, hasErr := false, restart := true, err := 0 }
  | .br => { vector := 5, kind := .fault, hasErr := false, restart := true, err := 0 }
  | .ud => { vector := 6, kind := .fault, hasErr := false, restart := true, err := 0 }
  | .gp e => { vector := 13, kind := .fault, hasErr := true, restart := true, err := e }
  | .sw v => { vector := v, kind := .software, hasErr := false, restart := false, err := 0 }

/-- Record an interrupt unless one is pending: the first one wins (60_exceptions R650, R651). -/
def State.post (p : Pending) (s : State) : State :=
  s.setIntr { s.intr with pending := some (s.intr.pending.getD p) }

/-- `raise` of an exception (60_exceptions R650): the interrupt is recorded and nothing else happens now. -/
def State.raise (x : Exn) (s : State) : State := s.post x.pending

/-- Run `k` unless the privilege check `RequireCPL0()` raises #GP(0) (45_system R580). -/
def requireCpl0 (s : State) (k : State → State) : State :=
  if s.pe && decide (s.cpl ≠ 0) then s.raise (.gp 0) else k s

/-- Run `k` unless `CheckIOPL()` raises #GP(0) (60_exceptions R672). -/
def checkIopl (s : State) (k : State → State) : State :=
  if s.pe && decide (s.flags.iopl < s.cpl) then s.raise (.gp 0) else k s

/-- Run `k` in protected mode; in real mode raise #UD (45_system R589). -/
def protectedOnly (s : State) (k : State → State) : State := if s.pe then k s else s.raise .ud

/-! ## Segment loads (20_memory R130 to R136) -/

/-- A decoded descriptor (20_memory R133). -/
structure Descriptor where
  base : Word
  limit : Word
  acc : BitVec 12
  offset : Word
  gsel : BitVec 16
  deriving DecidableEq, Repr

/-- Decode the two words of a descriptor (20_memory R133). -/
def decodeDescriptor (lo hi : Word) : Descriptor :=
  let acc : BitVec 12 := hi.extractLsb' 20 4 ++ hi.extractLsb' 8 8
  let limit20 : Word := 0#12 ++ hi.extractLsb' 16 4 ++ lo.extractLsb' 0 16
  { base := hi.extractLsb' 24 8 ++ hi.extractLsb' 0 8 ++ lo.extractLsb' 16 16
    limit := if acc.getLsbD 11 then (limit20 <<< 12) ||| 0xFFF else limit20
    acc := acc
    offset := hi.extractLsb' 16 16 ++ lo.extractLsb' 0 16
    gsel := lo.extractLsb' 16 16 }

/-- The present bit `acc[7]`. -/
def Descriptor.present (d : Descriptor) : Bool := d.acc.getLsbD 7

/-- The class `segment`: `acc[4] = 1` (20_memory R133). -/
def Descriptor.isSegment (d : Descriptor) : Bool := d.acc.getLsbD 4

/-- The type bits `acc[3:0]` (10_state R55). -/
def Descriptor.type (d : Descriptor) : BitVec 4 := d.acc.extractLsb' 0 4

/-- The classes of a descriptor (20_memory R133). -/
inductive DescClass where
  | segment
  | gate
  | systemObject
  deriving DecidableEq, Repr

/-- The class of a descriptor (20_memory R133). -/
def Descriptor.cls (d : Descriptor) : DescClass :=
  if d.isSegment then .segment
  else if d.type ∈ [0x4, 0x5, 0x6, 0x7, 0xC, 0xE, 0xF] then .gate
  else .systemObject

/-- A null selector: index 0 in the GDT (20_memory R131, R139). -/
def isNullSel (sel : BitVec 16) : Bool := sel.extractLsb' 2 14 == 0

/-- The offset of a selector's descriptor in its table, `idx8` (20_memory R132). -/
def selIndex8 (sel : BitVec 16) : Word := 0#16 ++ sel.extractLsb' 3 13 ++ 0#3

/-- Base and limit of the table a selector refers to: GDT, or LDT when bit 2 is set (20_memory R132). -/
def State.tableOf (s : State) (sel : BitVec 16) : Word × Word :=
  if sel.getLsbD 2 then (s.sys.ldtr.base, s.sys.ldtr.limit)
  else (s.sys.gdtr.base, s.sys.gdtr.limit.setWidth 32)

/-- The linear address of a selector's descriptor, none when it is not inside its table (20_memory R132). -/
def State.descAddr (s : State) (sel : BitVec 16) : Option Word :=
  let t := s.tableOf sel
  if t.2.toNat < (selIndex8 sel).toNat + 7 then none else some (t.1 + selIndex8 sel)

/-- The descriptor at a linear address (20_memory R132, R133). -/
def State.descriptor (s : State) (a : Word) : Descriptor :=
  decodeDescriptor (s.memVal .b32 a) ((s.memTouch .b32 a).memVal .b32 (a + 4))

/-- Whether all eight bytes at an address were read with `ok` (20_memory R133). -/
def State.descValid (s : State) (a : Word) : Bool := s.memOk .b32 a && (s.memTouch .b32 a).memOk .b32 (a + 4)

/-- The effect of the two reads of a descriptor. -/
def State.descTouch (a : Word) (s : State) : State := (s.memTouch .b32 a).memTouch .b32 (a + 4)

/-- The segment record of a descriptor under a selector (20_memory R135). -/
def Descriptor.segReg (d : Descriptor) (sel : BitVec 16) : SegReg :=
  { sel := sel, base := d.base, limit := d.limit, acc := d.acc }

/-- What `LoadSeg(g, sel)` puts into `SEG[g]`, whose old value is `old`; none when it raises #GP(sel)
(20_memory R130 to R135). -/
def State.segLoad (s : State) (old : SegReg) (sel : BitVec 16) : Option SegReg :=
  if !s.pe then some { old with sel := sel, base := sel.setWidth 32 <<< 4 }
  else if isNullSel sel then some { sel := sel, base := 0, limit := 0, acc := 0 }
  else
    match s.descAddr sel with
    | none => none
    | some a =>
      let d := s.descriptor a
      if d.present && s.descValid a && d.isSegment then some (d.segReg sel) else none

/-- The reads of `LoadSeg(g, sel)`, which it makes whether it raises or not (20_memory R132, R136). -/
def State.segLoadTouch (sel : BitVec 16) (s : State) : State :=
  if !s.pe || isNullSel sel then s
  else
    match s.descAddr sel with
    | none => s
    | some a => s.descTouch a

/-- `LoadSeg(g, sel)`, then `k`; on a raise the segment register is unmodified and `k` does not run
(20_memory R130 to R136). -/
def loadSeg (g : Seg) (sel : BitVec 16) (s : State) (k : State → State) : State :=
  let t := s.segLoadTouch sel
  match s.segLoad (s.segs.get g) sel with
  | some r => k (t.setSegs (t.segs.set g r))
  | none => t.raise (.gp (sel.setWidth 32))

/-- The system-segment descriptor LLDT or LTR loads: in the GDT, valid, present and of an accepted type; none when
#GP(sel) is raised (45_system R592, R593). -/
def State.sysLoad (s : State) (types : List (BitVec 4)) (sel : BitVec 16) : Option SegReg :=
  if sel.getLsbD 2 then none
  else
    match s.descAddr sel with
    | none => none
    | some a =>
      let d := s.descriptor a
      if s.descValid a && d.present && !d.isSegment && types.contains d.type then some (d.segReg sel) else none

/-- The reads of the lookup of LLDT or LTR. -/
def State.sysLoadTouch (sel : BitVec 16) (s : State) : State :=
  if sel.getLsbD 2 then s
  else
    match s.descAddr sel with
    | none => s
    | some a => s.descTouch a

/-! ## Taking an exception (60_exceptions R660 to R665, R691) -/

/-- The return address of a pending interrupt: selector and offset (60_exceptions R661). -/
def State.returnAddr (s : State) (p : Pending) : BitVec 16 × Word :=
  if p.restart then (s.intr.savedCs.sel, s.intr.savedEip) else (s.segs.cs.sel, s.eip)

/-- The real-mode vector table entry of a vector (60_exceptions R662). -/
def State.vectorAddr (s : State) (v : Byte) : Word := s.sys.idtr.base + (0#22 ++ v ++ 0#2)

/-- The protected-mode gate of a vector; none outside the table (60_exceptions R663). -/
def State.gateAddr (s : State) (v : Byte) : Option Word :=
  if s.sys.idtr.limit.toNat < 8 * v.toNat + 7 then none else some (s.sys.idtr.base + (0#21 ++ v ++ 0#3))

/-- The handler's selector and offset, none when the lookup fails (60_exceptions R662, R663). -/
def State.target (s : State) (v : Byte) : Option (BitVec 16 × Word) :=
  if !s.pe then
    let a := s.vectorAddr v
    let t := s.memTouch .b16 a
    if s.memOk .b16 a && t.memOk .b16 (a + 2) then
      some (t.memVal .b16 (a + 2), (s.memVal .b16 a).setWidth 32)
    else none
  else
    match s.gateAddr v with
    | none => none
    | some a =>
      let d := s.descriptor a
      if s.descValid a && d.present && !d.isSegment && (d.type == 0x6 || d.type == 0xE) then
        some (d.gsel, if d.type == 0xE then d.offset else d.offset &&& 0x0000FFFF)
      else none

/-- The reads of the lookup of the handler. -/
def State.targetTouch (v : Byte) (s : State) : State :=
  if !s.pe then (s.memTouch .b16 (s.vectorAddr v)).memTouch .b16 (s.vectorAddr v + 2)
  else
    match s.gateAddr v with
    | none => s
    | some a => s.descTouch a

/-- The reason bits (60_exceptions R686). -/
def reasonTimeout : BitVec 8 := 0x01
def reasonMaxInstr : BitVec 8 := 0x02
def reasonNoExecCode : BitVec 8 := 0x04
def reasonTightLoop : BitVec 8 := 0x08
def reasonNoValidCode : BitVec 8 := 0x10
def reasonHalt : BitVec 8 := 0x20
def reasonCodeCheck : BitVec 8 := 0x40
def reasonDeliveryFail : BitVec 8 := 0x80

/-- Halt with a reason bit (60_exceptions R665, R684; 45_system R581). -/
def State.haltWith (r : BitVec 8) (s : State) : State :=
  s.setCtl { s.ctl with halted := true, reason := s.ctl.reason ||| r }

/-- Delivery failed: halted, the reason bit, and the interrupt kept in the slot (60_exceptions R665). -/
def State.deliveryFailed (p : Pending) (s : State) : State :=
  (s.setIntr { s.intr with pending := some p }).haltWith reasonDeliveryFail

/-- The three or four pushes of delivery, of the stack's width (60_exceptions R664). -/
def State.pushFrame (p : Pending) (rcs : BitVec 16) (rip : Word) (s : State) : State :=
  let w := s.ssz.width
  let s3 := ((s.push w (s.flags.toWord.setWidth w.bits)).push w (rcs.setWidth w.bits)).push w (rip.setWidth w.bits)
  if p.hasErr then s3.push w (p.err.setWidth w.bits) else s3

/-- Delivery clears IF and TF (60_exceptions R664). -/
def Eflags.masked (f : Eflags) : Eflags := { f with ifl := false, tf := false }

/-- The transfer to the handler: pushes, IF and TF, CS, EIP (60_exceptions R664). -/
def State.enterHandler (p : Pending) (rcs : BitVec 16) (rip : Word) (tsel : BitVec 16) (toff : Word) (s : State) :
    State :=
  let s1 := s.pushFrame p rcs rip
  let s2 := s1.setFlags s1.flags.masked
  let s3 := s2.segLoadTouch tsel
  match s2.segLoad s2.segs.cs tsel with
  | some r => (s3.setSegs (s3.segs.set .cs r)).setEip toff
  | none => s3.deliveryFailed p

/-- The default delivery of an interrupt with a return address: the lookup, then the transfer (60_exceptions R660). -/
def State.vectorTo (p : Pending) (ra : BitVec 16 × Word) (s : State) : State :=
  let s1 := s.targetTouch p.vector
  match s.target p.vector with
  | none => s1.deliveryFailed p
  | some t => s1.enterHandler p ra.1 ra.2 t.1 t.2

/-- CS and EIP of the return address, as they were in `s` before the hook was called, put into the state `u` it left;
nothing is pushed (60_exceptions R691). -/
def State.hookReturn (p : Pending) (s u : State) : State :=
  (u.setSegs (if p.restart then u.segs.set .cs s.intr.savedCs else u.segs)).setEip (s.returnAddr p).2

/-- TAKING AN EXCEPTION: `Deliver()` of a pending interrupt (60_exceptions R660). An installed hook is asked first. When
it handled the interrupt the core goes on at the return address, or where the hook set CS and EIP itself (R691; log entry
8); else the default delivery goes on in the state the hook left (R690). -/
def State.takeException (p : Pending) (s0 : State) : State :=
  let s := s0.setIntr { s0.intr with pending := none }
  if s.cfg.intrHook then
    let r := Config.intrHook p.vector p.kind s
    let u := s.resume r.state
    if r.handled then (if r.moved then u else s.hookReturn p u) else u.vectorTo p (s.returnAddr p)
  else s.vectorTo p (s.returnAddr p)

/-- Step 1 of the cycle: deliver the pending interrupt if there is one (60_exceptions R660, R681). -/
def State.deliver (s : State) : State :=
  match s.intr.pending with
  | none => s
  | some p => s.takeException p

/-! ## Far transfers and the return from an exception (43_control_transfer R494, R503) -/

/-- `FarJump(sel, off)` (43_control_transfer R503). -/
def State.farJump (sel : BitVec 16) (off : Word) (s : State) : State :=
  loadSeg .cs sel s fun s1 => s1.setEip off

/-- `FarCall(sel, off)` (43_control_transfer R503). -/
def State.farCall (w : Width) (sel : BitVec 16) (off : Word) (s : State) : State :=
  let oldSel := s.segs.cs.sel
  let ret := s.eip
  loadSeg .cs sel s fun s1 =>
    ((s1.push w (oldSel.setWidth w.bits)).push w (ret.setWidth w.bits)).setEip off

/-- The stack offset `k` operands of width `w` above the stack pointer (43_control_transfer R493, R494). -/
def State.stackOff (s : State) (w : Width) (k : Nat) : Word := s.ssz.trunc (s.sp + BitVec.ofNat 32 (k * w.bytes))

/-- Entry `k` of the stack, of width `w`. -/
def State.stackVal (s : State) (w : Width) (k : Nat) : BitVec w.bits := s.segVal w .ss (s.stackOff w k)

/-- The effect of reading entry `k` of the stack. -/
def State.stackTouch (w : Width) (k : Nat) (s : State) : State := s.segTouch w .ss (s.stackOff w k)

/-- RETF: two entries of width `w`, then `extra` bytes released (43_control_transfer R493). -/
def State.farReturn (w : Width) (extra : Word) (s : State) : State :=
  let off := s.stackVal w 0
  let t := s.stackTouch w 0
  let sel := (t.stackVal w 1).setWidth 16
  loadSeg .cs sel (t.stackTouch w 1) fun s1 =>
    (s1.adjustSp (BitVec.ofNat 32 (2 * w.bytes) + extra)).setEip (off.setWidth 32)

/-- THE RETURN FROM AN EXCEPTION: IRET of operand width `w` (43_control_transfer R494, 60_exceptions R668). -/
def State.interruptReturn (w : Width) (s : State) : State :=
  let off := s.stackVal w 0
  let t := s.stackTouch w 0
  let sel := (t.stackVal w 1).setWidth 16
  let u := t.stackTouch w 1
  let image := (u.stackVal w 2).setWidth 32
  let v := u.stackTouch w 2
  loadSeg .cs sel v fun s1 =>
    ((s1.adjustSp (BitVec.ofNat 32 (3 * w.bytes))).setEip (off.setWidth 32)).setFlags
      (s1.flags.write v.pe v.cpl v.flags.iopl image)

/-! ## Ports (20_memory R150 to R154) -/

/-- `IOPERM[p]`. -/
def Ports.permAt (q : Ports) (p : BitVec 16) : Byte := Sparse.get 0 q.perm p.toNat

/-- PERM_R of a port (20_memory R151). -/
def Ports.canRead (q : Ports) (p : BitVec 16) : Bool := (q.permAt p).getLsbD 0

/-- PERM_W of a port (20_memory R151). -/
def Ports.canWrite (q : Ports) (p : BitVec 16) : Bool := (q.permAt p).getLsbD 1

/-- The `n` ports from `p` on, modulo 65536 (20_memory R152). -/
def portSpan : Nat → BitVec 16 → List (BitVec 16)
  | 0, _ => []
  | n + 1, p => p :: portSpan n (p + 1)

/-- Count a read of a port (20_memory R152). -/
def Ports.countRead (q : Ports) (p : BitVec 16) : Ports :=
  { q with rd := Sparse.set 0 q.rd p.toNat (Sparse.get 0 q.rd p.toNat + 1) }

/-- Count a write of a port (20_memory R153). -/
def Ports.countWrite (q : Ports) (p : BitVec 16) : Ports :=
  { q with wr := Sparse.set 0 q.wr p.toNat (Sparse.get 0 q.wr p.toNat + 1) }

/-- Append an output event (20_memory R150). -/
def Ports.emit (q : Ports) (e : PortEvent) : Ports := { q with out := q.out ++ [e] }

/-- Count the reads of those ports of a span that may be read. -/
def Ports.countReads (q : Ports) : List (BitVec 16) → Ports
  | [] => q
  | p :: ps => (if q.canRead p then q.countRead p else q).countReads ps

/-- One byte of a byte-path port read; `d` is the draw, one per byte (20_memory R152). -/
def Ports.byteVal (q : Ports) (d : Nat) (p : BitVec 16) : Byte :=
  if q.canRead p then Config.portIn d p .b8 else 0xFF

/-- The value of the byte path of a port read (20_memory R152). -/
def Ports.bytesVal (q : Ports) (d : Nat) (w : Width) (p : BitVec 16) : BitVec w.bits :=
  match w with
  | .b8 => q.byteVal d p
  | .b16 => q.byteVal (d + 1) (p + 1) ++ q.byteVal d p
  | .b32 => q.byteVal (d + 3) (p + 3) ++ q.byteVal (d + 2) (p + 2) ++ q.byteVal (d + 1) (p + 1) ++ q.byteVal d p

/-- The value `PortRead(p, n)` returns (20_memory R152). -/
def State.portVal (s : State) (w : Width) (p : BitVec 16) : BitVec w.bits :=
  if (portSpan w.bytes p).all s.ports.canRead then Config.portIn s.draws p w
  else s.ports.bytesVal s.draws w p

/-- The effect of `PortRead(p, n)`: the counters, `mem_invalid`, and four draws, whatever the width (20_memory R152). -/
def State.portTouch (w : Width) (p : BitVec 16) (s : State) : State :=
  { s with ports := s.ports.countReads (portSpan w.bytes p)
           mem := { s.mem with invalid := s.mem.invalid || !(portSpan w.bytes p).all s.ports.canRead }
           draws := s.draws + 4 }

/-- The byte path of a port write: the permitted bytes are events of their own (20_memory R153). -/
def Ports.writeBytes (q : Ports) : List (BitVec 16 × Byte) → Ports
  | [] => q
  | (p, v) :: r =>
    (if q.canWrite p then (q.emit ⟨p, 1, v.setWidth 32⟩).countWrite p else q).writeBytes r

/-- Count the writes of several ports. -/
def Ports.countWrites (q : Ports) : List (BitVec 16) → Ports
  | [] => q
  | p :: ps => (q.countWrite p).countWrites ps

/-- `PortWrite(p, n, v)` (20_memory R153). -/
def State.portWrite (w : Width) (p : BitVec 16) (v : BitVec w.bits) (s : State) : State :=
  let qs := portSpan w.bytes p
  let all := qs.all s.ports.canWrite
  { s with ports := if all then (s.ports.emit ⟨p, w.bytes, v.setWidth 32⟩).countWrites qs
                    else s.ports.writeBytes (qs.zip (leBytes w v))
           mem := { s.mem with invalid := s.mem.invalid || !all } }

/-! ## Draws -/

/-- The values drawn by one execution have been used: later draws are fresh (00_scope R16). -/
def State.drew (s : State) : State := s.setDraws (s.draws + 1)

end Sys2Proof.Machine
end

