-- ==== Sys2Proof/Machine/Flags.lean ====
section
/-! DEFINITION. The ALU primitives and the flags they derive (40_alu_primitives.md), and the condition codes
(43_control_transfer R481). A primitive takes its operands, the flags before, and where the spec leaves a flag open
the number of the draw; it answers the result and the flags after. -/

namespace Sys2Proof.Machine

/-- `parity8`: whether the low eight bits hold an even number of ones (40_alu_primitives R250). -/
def parity8 {n : Nat} (r : BitVec n) : Bool :=
  !(r.getLsbD 0 ^^ r.getLsbD 1 ^^ r.getLsbD 2 ^^ r.getLsbD 3 ^^ r.getLsbD 4 ^^ r.getLsbD 5 ^^ r.getLsbD 6 ^^
    r.getLsbD 7)

/-- `SetSZP_N(r)` (40_alu_primitives R250). -/
def Eflags.szp {n : Nat} (f : Eflags) (r : BitVec n) : Eflags :=
  { f with zf := r == 0, sf := r.msb, pf := parity8 r }

/-! ## Addition and subtraction (R251 to R260) -/

/-- The carry chain (40_alu_primitives R251). -/
def carryChain {n : Nat} (d s r : BitVec n) : BitVec n := (s &&& d) ||| (~~~r &&& (s ||| d))

/-- The borrow chain (40_alu_primitives R252). -/
def borrowChain {n : Nat} (d s r : BitVec n) : BitVec n := (r &&& (~~~d ||| s)) ||| (~~~d &&& s)

/-- CF, OF and AF from a chain (40_alu_primitives R251, R252). -/
def Eflags.chain {n : Nat} (f : Eflags) (c : BitVec n) : Eflags :=
  { f with cf := c.getLsbD (n - 1), ovf := c.getLsbD (n - 1) ^^ c.getLsbD (n - 2), af := c.getLsbD 3 }

/-- `add_N` (40_alu_primitives R253). -/
def opAdd (n : Nat) (d s : BitVec n) (f : Eflags) (_ : Nat) : BitVec n × Eflags :=
  (d + s, (f.szp (d + s)).chain (carryChain d s (d + s)))

/-- `adc_N` (40_alu_primitives R254). -/
def opAdc (n : Nat) (d s : BitVec n) (f : Eflags) (_ : Nat) : BitVec n × Eflags :=
  let r := d + s + (BitVec.ofBool f.cf).setWidth n
  (r, (f.szp r).chain (carryChain d s r))

/-- `sub_N`; `cmp_N` is the same without the result (40_alu_primitives R256, R258). -/
def opSub (n : Nat) (d s : BitVec n) (f : Eflags) (_ : Nat) : BitVec n × Eflags :=
  (d - s, (f.szp (d - s)).chain (borrowChain d s (d - s)))

/-- `sbb_N` (40_alu_primitives R257). -/
def opSbb (n : Nat) (d s : BitVec n) (f : Eflags) (_ : Nat) : BitVec n × Eflags :=
  let r := d - s - (BitVec.ofBool f.cf).setWidth n
  (r, (f.szp r).chain (borrowChain d s r))

/-- `inc_N`: CF is not written (40_alu_primitives R255). -/
def opInc (n : Nat) (d : BitVec n) (f : Eflags) : BitVec n × Eflags :=
  let r := d + BitVec.ofNat n 1
  (r, { (f.szp r).chain (carryChain d (BitVec.ofNat n 1) r) with cf := f.cf })

/-- `dec_N`: CF is not written (40_alu_primitives R259). -/
def opDec (n : Nat) (d : BitVec n) (f : Eflags) : BitVec n × Eflags :=
  let r := d - BitVec.ofNat n 1
  (r, { (f.szp r).chain (borrowChain d (BitVec.ofNat n 1) r) with cf := f.cf })

/-- `neg_N`: subtraction from 0 (40_alu_primitives R260). -/
def opNeg (n : Nat) (d : BitVec n) (f : Eflags) : BitVec n × Eflags := opSub n 0 d f 0

/-- `not_N`: no flag is written (40_alu_primitives R265). -/
def opNot (n : Nat) (d : BitVec n) (f : Eflags) : BitVec n × Eflags := (~~~d, f)

/-! ## Logic (R263, R264) -/

/-- The flags of a logic operation: CF and OF cleared, AF free (40_alu_primitives R263, U1). -/
def Eflags.logic {n : Nat} (f : Eflags) (r : BitVec n) (draw : Nat) : Eflags :=
  { f.szp r with cf := false, ovf := false, af := Config.freeFlag draw .af }

/-- `and_N`; `test_N` is the same without the result (40_alu_primitives R263, R264). -/
def opAnd (n : Nat) (d s : BitVec n) (f : Eflags) (draw : Nat) : BitVec n × Eflags :=
  (d &&& s, f.logic (d &&& s) draw)

/-- `or_N` (40_alu_primitives R263). -/
def opOr (n : Nat) (d s : BitVec n) (f : Eflags) (draw : Nat) : BitVec n × Eflags :=
  (d ||| s, f.logic (d ||| s) draw)

/-- `xor_N` (40_alu_primitives R263). -/
def opXor (n : Nat) (d s : BitVec n) (f : Eflags) (draw : Nat) : BitVec n × Eflags :=
  (d ^^^ s, f.logic (d ^^^ s) draw)

/-! ## Shifts and rotates (R270 to R279). The count is the one the instruction masked to five bits. -/

/-- OF of a shift or rotate: defined for a count of 1, free otherwise (40_alu_primitives R270, U2). -/
def shiftOvf (draw : Nat) (m : Nat) (v : Bool) : Bool := if m = 1 then v else Config.freeFlag draw .ovf

/-- The flags of a shift by a non-zero count: SetSZP of the result, CF, OF, and AF free (40_alu_primitives R270). -/
def Eflags.shifted {n : Nat} (f : Eflags) (draw : Nat) (r : BitVec n) (cf ovf : Bool) : Eflags :=
  { f.szp r with cf := cf, ovf := ovf, af := Config.freeFlag draw .af }

/-- `shl_N` (40_alu_primitives R271). -/
def opShl (n : Nat) (d : BitVec n) (c : Nat) (f : Eflags) (draw : Nat) : BitVec n × Eflags :=
  if c = 0 then (d, f)
  else if c < n then
    let r := d <<< c
    let cf := d.getLsbD (n - c)
    (r, f.shifted draw r cf (shiftOvf draw c (r.msb ^^ cf)))
  else (0, f.shifted draw (0 : BitVec n) (c == n && d.getLsbD 0) (Config.freeFlag draw .ovf))

/-- `shr_N` (40_alu_primitives R272). -/
def opShr (n : Nat) (d : BitVec n) (c : Nat) (f : Eflags) (draw : Nat) : BitVec n × Eflags :=
  if c = 0 then (d, f)
  else if c < n then
    let r := d >>> c
    (r, f.shifted draw r (d.getLsbD (c - 1)) (shiftOvf draw c d.msb))
  else (0, f.shifted draw (0 : BitVec n) (c == n && d.msb) (Config.freeFlag draw .ovf))

/-- `sar_N` (40_alu_primitives R273). -/
def opSar (n : Nat) (d : BitVec n) (c : Nat) (f : Eflags) (draw : Nat) : BitVec n × Eflags :=
  if c = 0 then (d, f)
  else if c < n then
    let r := d.sshiftRight c
    (r, f.shifted draw r (d.getLsbD (c - 1)) (shiftOvf draw c false))
  else
    let r : BitVec n := if d.msb then ~~~0 else 0
    (r, f.shifted draw r d.msb (Config.freeFlag draw .ovf))

/-- `rol_N`; `full` is ROT_FULL_UPDATES_CF (40_alu_primitives R274). -/
def opRol (n : Nat) (full : Bool) (d : BitVec n) (c : Nat) (f : Eflags) (draw : Nat) : BitVec n × Eflags :=
  let m := c % n
  if c = 0 then (d, f)
  else if m = 0 then (d, if full then { f with cf := d.getLsbD 0 } else f)
  else
    let r := (d <<< m) ||| (d >>> (n - m))
    let cf := r.getLsbD 0
    (r, { f with cf := cf, ovf := shiftOvf draw m (r.msb ^^ cf) })

/-- `ror_N` (40_alu_primitives R275). -/
def opRor (n : Nat) (full : Bool) (d : BitVec n) (c : Nat) (f : Eflags) (draw : Nat) : BitVec n × Eflags :=
  let m := c % n
  if c = 0 then (d, f)
  else if m = 0 then (d, if full then { f with cf := d.msb } else f)
  else
    let r := (d >>> m) ||| (d <<< (n - m))
    (r, { f with cf := r.msb, ovf := shiftOvf draw m (r.msb ^^ r.getLsbD (n - 2)) })

/-- The (N+1)-bit value CF above the operand, rotated left by `m` (40_alu_primitives R276). -/
def rotCarryLeft {n : Nat} (cf : Bool) (d : BitVec n) (m : Nat) : BitVec (n + 1) :=
  let x := BitVec.cons cf d
  (x <<< m) ||| (x >>> (n + 1 - m))

/-- `rcl_N` (40_alu_primitives R276). -/
def opRcl (n : Nat) (d : BitVec n) (c : Nat) (f : Eflags) (draw : Nat) : BitVec n × Eflags :=
  let m := c % (n + 1)
  if m = 0 then (d, f)
  else
    let x := rotCarryLeft f.cf d m
    let r := x.setWidth n
    (r, { f with cf := x.msb, ovf := shiftOvf draw m (r.msb ^^ x.msb) })

/-- `rcr_N` (40_alu_primitives R277). -/
def opRcr (n : Nat) (d : BitVec n) (c : Nat) (f : Eflags) (draw : Nat) : BitVec n × Eflags :=
  let m := c % (n + 1)
  if m = 0 then (d, f)
  else
    let x := rotCarryLeft f.cf d (n + 1 - m)
    let r := x.setWidth n
    (r, { f with cf := x.msb, ovf := shiftOvf draw m (r.msb ^^ r.getLsbD (n - 2)) })

/-- `shld_N` (40_alu_primitives R278). -/
def opShld (n : Nat) (d s : BitVec n) (c : Nat) (f : Eflags) (draw : Nat) : BitVec n × Eflags :=
  if c = 0 then (d, f)
  else if c < n then
    let r := (d <<< c) ||| (s >>> (n - c))
    let cf := d.getLsbD (n - c)
    (r, f.shifted draw r cf (shiftOvf draw c (r.msb ^^ cf)))
  else (0, f.shifted draw (0 : BitVec n) (c == n && d.getLsbD 0) (Config.freeFlag draw .ovf))

/-- `shrd_N` (40_alu_primitives R279). -/
def opShrd (n : Nat) (d s : BitVec n) (c : Nat) (f : Eflags) (draw : Nat) : BitVec n × Eflags :=
  if c = 0 then (d, f)
  else if c < n then
    let r := (d >>> c) ||| (s <<< (n - c))
    (r, f.shifted draw r (d.getLsbD (c - 1)) (shiftOvf draw c (r.msb ^^ r.getLsbD (n - 2))))
  else (0, f.shifted draw (0 : BitVec n) (c == n && d.msb) (Config.freeFlag draw .ovf))

/-! ## Multiply and divide (R285 to R289) -/

/-- The flags of a multiply: CF and OF say that the product does not fit, the rest is free (40_alu_primitives R285). -/
def Eflags.multiplied (f : Eflags) (draw : Nat) (big : Bool) : Eflags :=
  { f with cf := big, ovf := big, sf := Config.freeFlag draw .sf, zf := Config.freeFlag draw .zf,
           af := Config.freeFlag draw .af, pf := Config.freeFlag draw .pf }

/-- `mul_N`: the high and low halves of the product, and whether the high half is not 0 (40_alu_primitives R285). -/
def opMul (n : Nat) (a s : BitVec n) : BitVec n × BitVec n × Bool :=
  let p := a.toNat * s.toNat
  let hi := BitVec.ofNat n (p / 2 ^ n)
  (hi, BitVec.ofNat n p, hi != 0)

/-- `imul_N`: the halves of the signed product, and whether the low half does not hold it (40_alu_primitives R286). -/
def opImul (n : Nat) (a s : BitVec n) : BitVec n × BitVec n × Bool :=
  let p := a.toInt * s.toInt
  let lo := BitVec.ofInt n p
  (BitVec.ofInt n (p / 2 ^ n), lo, lo.toInt != p)

/-- `imul2_N`: the truncated signed product, and whether it was truncated (40_alu_primitives R287). -/
def opImul2 (n : Nat) (a b : BitVec n) : BitVec n × Bool :=
  let p := a.toInt * b.toInt
  let r := BitVec.ofInt n p
  (r, r.toInt != p)

/-- All six status flags free (U5, U9). -/
def Eflags.allFree (f : Eflags) (draw : Nat) : Eflags :=
  { f with cf := Config.freeFlag draw .cf, pf := Config.freeFlag draw .pf, af := Config.freeFlag draw .af,
           zf := Config.freeFlag draw .zf, sf := Config.freeFlag draw .sf, ovf := Config.freeFlag draw .ovf }

/-- `div_N`: quotient and remainder of the 2N-bit dividend, none for #DE (40_alu_primitives R288). -/
def opDiv (n : Nat) (dd : Nat) (s : BitVec n) : Option (BitVec n × BitVec n) :=
  if s = 0 then none
  else if 2 ^ n ≤ dd / s.toNat then none
  else some (BitVec.ofNat n (dd / s.toNat), BitVec.ofNat n (dd % s.toNat))

/-- `idiv_N`: quotient truncated toward 0 and remainder of the dividend's sign, none for #DE
(40_alu_primitives R289). -/
def opIdiv (n : Nat) (dd : Int) (s : BitVec n) : Option (BitVec n × BitVec n) :=
  if s = 0 then none
  else
    let q := dd.tdiv s.toInt
    if q < -(2 ^ (n - 1)) || 2 ^ (n - 1) - 1 < q then none
    else some (BitVec.ofInt n q, BitVec.ofInt n (dd - q * s.toInt))

/-! ## Bit scan (42_arithmetic_logic R434, R435) -/

/-- The least i below `n` with bit i set, `n` if there is none. -/
def lowestBit (n : Nat) (v : BitVec n) : Nat := ((List.range n).find? fun i => v.getLsbD i).getD n

/-- The greatest i below `n` with bit i set, `n` if there is none. -/
def highestBit (n : Nat) (v : BitVec n) : Nat := ((List.range n).reverse.find? fun i => v.getLsbD i).getD n

/-- The flags the bit tests leave open: OF, SF, AF, PF (U6). -/
def Eflags.bitFree (f : Eflags) (draw : Nat) : Eflags :=
  { f with ovf := Config.freeFlag draw .ovf, sf := Config.freeFlag draw .sf, af := Config.freeFlag draw .af,
           pf := Config.freeFlag draw .pf }

/-! ## Conditions (43_control_transfer R481) -/

/-- `cond(cc)`. -/
def condHolds (f : Eflags) : Cond → Bool
  | .o => f.ovf
  | .no => !f.ovf
  | .b => f.cf
  | .nb => !f.cf
  | .z => f.zf
  | .nz => !f.zf
  | .be => f.cf || f.zf
  | .nbe => !f.cf && !f.zf
  | .s => f.sf
  | .ns => !f.sf
  | .p => f.pf
  | .np => !f.pf
  | .l => f.sf != f.ovf
  | .nl => f.sf == f.ovf
  | .le => f.zf || (f.sf != f.ovf)
  | .nle => !f.zf && (f.sf == f.ovf)

end Sys2Proof.Machine
end

