-- ==== Sys2Proof/Machine/Operands.lean ====
section
/-! DEFINITION. Every operand form: effective addresses and their default segment (30_encoding R186 to R192),
places a value is read from and written to (R193, R194), immediates (R196), memory pairs (R197), relative targets
(43_control_transfer R480), bit strings (42_arithmetic_logic R430) and string operands (44_string_io R540, R541). -/

namespace Sys2Proof.Machine

/-! ## Effective addresses -/

/-- A 16-bit displacement, 8-bit ones sign-extended (30_encoding R187, R191). -/
def disp16 : Disp16 → BitVec 16
  | .none => 0
  | .d8 v => v.signExtend 16
  | .d16 v => v

/-- A 32-bit displacement (30_encoding R188, R189, R191). -/
def disp32 : Disp32 → Word
  | .none => 0
  | .d8 v => v.signExtend 32
  | .d32 v => v

/-- The register sum of row `rm` of the 16-bit table (30_encoding R187). -/
def base16 (b : Bank) : Num8 → BitVec 16
  | .n0 => b.r16 .n3 + b.r16 .n6
  | .n1 => b.r16 .n3 + b.r16 .n7
  | .n2 => b.r16 .n5 + b.r16 .n6
  | .n3 => b.r16 .n5 + b.r16 .n7
  | .n4 => b.r16 .n6
  | .n5 => b.r16 .n7
  | .n6 => b.r16 .n5
  | .n7 => b.r16 .n3

/-- The scaled index of a SIB byte; number 4 is no index (30_encoding R189). -/
def scaledIndex (b : Bank) (i : Num8) (ss : BitVec 2) : Word :=
  if i = .n4 then 0 else b.get i <<< ss.toNat

/-- `EA.off`, zero-extended to 32 bits (30_encoding R186 to R189, R191). -/
def memOff (b : Bank) : MemRef → Word
  | .m16 rm d => (base16 b rm + disp16 d).setWidth 32
  | .abs16 v => v.setWidth 32
  | .m32 r d => b.get r + disp32 d
  | .abs32 v => v
  | .sib r i ss d => b.get r + scaledIndex b i ss + disp32 d
  | .sibAbs i ss v => scaledIndex b i ss + v

/-- The default segment; `onIndex` is SS_DEFAULT_ON_INDEX_EBP (30_encoding R187 to R190). -/
def memSeg (onIndex : Bool) : MemRef → Seg
  | .m16 .n2 _ | .m16 .n3 _ | .m16 .n6 _ => .ss
  | .m16 .n0 _ | .m16 .n1 _ | .m16 .n4 _ | .m16 .n5 _ | .m16 .n7 _ => .ds
  | .abs16 _ => .ds
  | .m32 r _ => if r = .n5 then .ss else .ds
  | .abs32 _ => .ds
  | .sib r i _ _ => if r = .n4 || r = .n5 || (onIndex && decide (i = .n5)) then .ss else .ds
  | .sibAbs i _ _ => if onIndex && decide (i = .n5) then .ss else .ds

/-- The address size an operand was decoded with. -/
def memSz : MemRef → Sz
  | .m16 _ _ => .s16
  | .abs16 _ => .s16
  | .m32 _ _ => .s32
  | .abs32 _ => .s32
  | .sib _ _ _ _ => .s32
  | .sibAbs _ _ _ => .s32

/-- `EA.off` in the state. -/
def State.eaOff (s : State) (m : MemRef) : Word := memOff s.regs m

/-- `trunc_AS(EA.off + k)` (30_encoding R197). -/
def State.eaNext (s : State) (m : MemRef) (k : Nat) : Word := (memSz m).trunc (s.eaOff m + BitVec.ofNat 32 k)

/-- The segment of a memory operand: the override if there is one (30_encoding R180, R190). -/
def State.eaSeg (s : State) (m : MemRef) : Seg := s.pfx.seg.getD (memSeg s.cfg.ssDefaultOnIndexEbp m)

/-- The segment of moffs, XLAT and string sources: the override or DS (30_encoding R180). -/
def State.dataSeg (s : State) : Seg := s.pfx.seg.getD .ds

/-! ## Places -/

/-- Where an operand is: a general register, or an offset in a segment. -/
inductive Place where
  | reg (r : Num8)
  | mem (g : Seg) (off : Word)
  deriving DecidableEq, Repr

/-- The place of an r/m operand, from the registers as they are (30_encoding R184, R186). -/
def State.place (s : State) : RM → Place
  | .reg r => .reg r
  | .mem m => .mem (s.eaSeg m) (s.eaOff m)

/-- The value at a place: `ReadRM(N)` (30_encoding R193). -/
def State.placeVal (s : State) (w : Width) : Place → BitVec w.bits
  | .reg r => s.regs.rn w r
  | .mem g off => s.segVal w g off

/-- What reading a place does: nothing for a register (30_encoding R193). -/
def State.placeTouch (w : Width) (p : Place) (s : State) : State :=
  match p with
  | .reg _ => s
  | .mem g off => s.segTouch w g off

/-- `WriteRM(N, v)` at a place: a read and a write of one operand are at the same place (30_encoding R193). -/
def State.placeStore (w : Width) (p : Place) (v : BitVec w.bits) (s : State) : State :=
  match p with
  | .reg r => s.setReg w r v
  | .mem g off => s.segStore w g off v

/-- `ReadRM(N)`'s value. -/
def State.rmVal (s : State) (w : Width) (rm : RM) : BitVec w.bits := s.placeVal w (s.place rm)

/-- `ReadRM(N)`'s effect. -/
def State.rmTouch (w : Width) (rm : RM) (s : State) : State := s.placeTouch w (s.place rm)

/-- `WriteRM(N, v)`. -/
def State.rmStore (w : Width) (rm : RM) (v : BitVec w.bits) (s : State) : State := s.placeStore w (s.place rm) v

/-- The place `k` bytes after a memory operand's offset (30_encoding R197). -/
def State.eaPlace (s : State) (m : MemRef) (k : Nat) : Place := .mem (s.eaSeg m) (s.eaNext m k)

/-- A value of width `w` at `k` bytes after a memory operand's offset (30_encoding R197). -/
def State.eaVal (s : State) (w : Width) (m : MemRef) (k : Nat) : BitVec w.bits := s.placeVal w (s.eaPlace m k)

/-- The effect of reading it. -/
def State.eaTouch (w : Width) (m : MemRef) (k : Nat) (s : State) : State := s.placeTouch w (s.eaPlace m k)

/-- The offset of a far pointer in memory (30_encoding R197). -/
def State.farOff (s : State) (m : MemRef) : BitVec s.osz.width.bits := s.eaVal s.osz.width m 0

/-- The selector of a far pointer in memory, read after the offset (30_encoding R197). -/
def State.farSel (s : State) (m : MemRef) : BitVec 16 :=
  (s.eaTouch s.osz.width m 0).placeVal .b16 (s.eaPlace m s.osz.bytes)

/-- The effect of reading a far pointer in memory (30_encoding R197). -/
def State.farTouch (m : MemRef) (s : State) : State :=
  (s.eaTouch s.osz.width m 0).placeTouch .b16 (s.eaPlace m s.osz.bytes)

/-! ## Immediates and targets -/

/-- An `Iz` at the operand's width (30_encoding R196). -/
def izVal (w : Width) : Iz → BitVec w.bits
  | .w v => v.setWidth w.bits
  | .d v => v.setWidth w.bits

/-- A moffs offset, zero-extended (30_encoding R195). -/
def moffsVal : Moffs → Word
  | .o16 v => v.setWidth 32
  | .o32 v => v

/-- A relative operand, sign-extended (30_encoding R196, 43_control_transfer R480). -/
def relDisp : Rel → Word
  | .short v => v.signExtend 32
  | .near (.w v) => v.signExtend 32
  | .near (.d v) => v

/-- `RelTarget(rel)` (43_control_transfer R480). -/
def State.relTarget (s : State) (rel : Rel) : Word := s.osz.trunc (s.eip + relDisp rel)

/-! ## The operands of the two-operand forms (42_arithmetic_logic R400) -/

/-- The width N of a form. -/
def aluWidth (o : Sz) : AluForm → Width
  | .rmR w _ _ => w.width o
  | .rRm w _ _ => w.width o
  | .accIb _ => .b8
  | .accIz _ => o.width
  | .ebIb _ _ => .b8
  | .evIz _ _ => o.width
  | .evIb _ _ => o.width

/-- The destination of a form. -/
def aluDst : AluForm → RM
  | .rmR _ rm _ => rm
  | .rRm _ r _ => .reg r
  | .accIb _ => .reg .n0
  | .accIz _ => .reg .n0
  | .ebIb rm _ => rm
  | .evIz rm _ => rm
  | .evIb rm _ => rm

/-- The r/m operand of a form, the only one that can be in memory. -/
def aluRm : AluForm → RM
  | .rmR _ rm _ => rm
  | .rRm _ _ rm => rm
  | .accIb _ => .reg .n0
  | .accIz _ => .reg .n0
  | .ebIb rm _ => rm
  | .evIz rm _ => rm
  | .evIb rm _ => rm

/-- The value of the source of a form, at width `w`, read after the destination (42_arithmetic_logic R400). -/
def State.aluSrc (s : State) (w : Width) : AluForm → BitVec w.bits
  | .rmR _ rm r => (s.rmTouch w rm).regs.rn w r
  | .rRm _ _ rm => s.rmVal w rm
  | .accIb v => v.setWidth w.bits
  | .accIz z => izVal w z
  | .ebIb _ v => v.setWidth w.bits
  | .evIz _ z => izVal w z
  | .evIb _ v => v.signExtend w.bits

/-- The width N of a form of TEST (42_arithmetic_logic R409). -/
def testWidth (o : Sz) : TestForm → Width
  | .rmR w _ _ => w.width o
  | .accIb _ => .b8
  | .accIz _ => o.width
  | .ebIb _ _ => .b8
  | .evIz _ _ => o.width

/-- The r/m operand of a form of TEST. -/
def testRm : TestForm → RM
  | .rmR _ rm _ => rm
  | .accIb _ => .reg .n0
  | .accIz _ => .reg .n0
  | .ebIb rm _ => rm
  | .evIz rm _ => rm

/-- The second operand of a form of TEST, at width `w`, read after the first. -/
def State.testSrc (s : State) (w : Width) : TestForm → BitVec w.bits
  | .rmR _ rm r => (s.rmTouch w rm).regs.rn w r
  | .accIb v => v.setWidth w.bits
  | .accIz z => izVal w z
  | .ebIb _ v => v.setWidth w.bits
  | .evIz _ z => izVal w z

/-- The width N of a form of INC or DEC (42_arithmetic_logic R410). -/
def incWidth (o : Sz) : IncForm → Width
  | .reg _ => o.width
  | .e w _ => w.width o

/-- The operand of a form of INC or DEC. -/
def incRm : IncForm → RM
  | .reg r => .reg r
  | .e _ rm => rm

/-! ## Counts and bit strings -/

/-- The count of group 2, masked to five bits (42_arithmetic_logic R420). -/
def State.shCount (s : State) : ShCount → Nat
  | .imm v => v.toNat % 32
  | .one => 1
  | .cl => (s.regs.r8 .n1).toNat % 32

/-- The count of SHLD and SHRD, masked to five bits (42_arithmetic_logic R428). -/
def State.dshCount (s : State) : DShCount → Nat
  | .imm v => v.toNat % 32
  | .cl => (s.regs.r8 .n1).toNat % 32

/-- The place of the word a bit test works on: a memory operand with a register index reaches beyond it
(42_arithmetic_logic R430). -/
def State.bitPlace (s : State) (w : Width) (rm : RM) (i : BitIdx) : Place :=
  match rm, i with
  | .mem m, .reg r =>
    .mem (s.eaSeg m)
      ((memSz m).trunc (s.eaOff m + BitVec.ofInt 32 ((s.regs.rn w r).toInt / (w.bits : Int) * (w.bytes : Int))))
  | rm, _ => s.place rm

/-- The bit number within the word (42_arithmetic_logic R430). -/
def State.bitNum (s : State) (w : Width) : BitIdx → Nat
  | .reg r => (s.regs.rn w r).toNat % w.bits
  | .imm v => v.toNat % w.bits

/-! ## String operands (44_string_io R540) -/

/-- A general register at the address size: SI or ESI, DI or EDI, CX or ECX (44_string_io R540). -/
def State.asReg (s : State) (i : Num8) : Word := s.asz.trunc (s.regs.get i)

/-- Write a general register at the address size: with 16 bits the upper half is kept. -/
def State.withAsReg (s : State) (i : Num8) (v : Word) : Bank :=
  match s.asz with
  | .s16 => s.regs.setR16 i (v.setWidth 16)
  | .s32 => s.regs.set i v

/-- The step of an index register: up or down by DF (44_string_io R540). -/
def State.delta (s : State) (w : Width) : Word :=
  if s.flags.df then -BitVec.ofNat 32 w.bytes else BitVec.ofNat 32 w.bytes

/-- Step an index register (44_string_io R540). -/
def State.stepIndex (w : Width) (i : Num8) (s : State) : State :=
  s.setRegs (s.withAsReg i (s.asReg i + s.delta w))

/-- The fuel of a repetition. CNT itself is enough of it; under a memory handler, which can change CNT at any access, the
repetition has as much as any CNT needs (log entry 10). -/
def State.repFuel (s : State) : Nat :=
  match s.io with
  | none => (s.asReg .n1).toNat
  | some _ => 2 ^ 32

/-- Repeat an element's operation while CNT is not 0 and `stop` does not hold; the first argument is fuel
(44_string_io R541). -/
def repLoop (stop : State → Bool) (body : State → State) : Nat → State → State
  | 0, s => s
  | n + 1, s =>
    if s.asReg .n1 = 0 then s
    else
      let s1 := body s
      let s2 := s1.setRegs (s1.withAsReg .n1 (s1.asReg .n1 - 1))
      if stop s2 then s2 else repLoop stop body n s2

/-- One element, or the repetition when there is a repeat prefix (44_string_io R541). -/
def State.repeated (stop : State → Bool) (body : State → State) (s : State) : State :=
  match s.pfx.rep with
  | none => body s
  | some _ => repLoop stop body s.repFuel s

/-- MOVS, LODS, STOS, INS and OUTS stop on the count alone (44_string_io R541). -/
def neverStop (_ : State) : Bool := false

/-- CMPS and SCAS: REPE stops on a mismatch, REPNE on a match (44_string_io R541). -/
def stopOnZf (s : State) : Bool :=
  match s.pfx.rep with
  | none => false
  | some .rep => !s.flags.zf
  | some .repne => s.flags.zf

end Sys2Proof.Machine
end

