-- ==== Sys2Proof/Machine/Arith.lean ====
section
/-! DEFINITION. Two-operand and one-operand arithmetic and logic, multiply and divide
(42_arithmetic_logic R400 to R419). -/

namespace Sys2Proof.Machine

/-- A primitive of two operands: width, operands, flags before and draw to result and flags after. -/
abbrev BinOp := (n : Nat) → BitVec n → BitVec n → Eflags → Nat → BitVec n × Eflags

/-- A primitive of one operand. -/
abbrev UnOp := (n : Nat) → BitVec n → Eflags → BitVec n × Eflags

/-- What a primitive makes of the operands of a form. -/
def State.aluResult (s : State) (op : BinOp) (f : AluForm) : BitVec (aluWidth s.osz f).bits × Eflags :=
  let w := aluWidth s.osz f
  op w.bits (s.rmVal w (aluDst f)) (s.aluSrc w f) (s.rmTouch w (aluRm f)).flags s.draws

/-- Read both operands, set the flags of the primitive and write its result back (42_arithmetic_logic R400). -/
def State.alu (op : BinOp) (f : AluForm) (s : State) : State :=
  let w := aluWidth s.osz f
  let r := s.aluResult op f
  ((s.rmTouch w (aluRm f)).setFlags r.2).placeStore w (s.place (aluDst f)) r.1

/-- Read both operands and write only the flags (42_arithmetic_logic R400, R408). -/
def State.aluFlags (op : BinOp) (f : AluForm) (s : State) : State :=
  (s.rmTouch (aluWidth s.osz f) (aluRm f)).setFlags (s.aluResult op f).2

/-- ADD (42_arithmetic_logic R401). -/
def execAdd (f : AluForm) (s : State) : Out := .next (s.alu opAdd f)

/-- OR (42_arithmetic_logic R402). -/
def execOr (f : AluForm) (s : State) : Out := .next (s.alu opOr f).drew

/-- ADC (42_arithmetic_logic R403). -/
def execAdc (f : AluForm) (s : State) : Out := .next (s.alu opAdc f)

/-- SBB (42_arithmetic_logic R404). -/
def execSbb (f : AluForm) (s : State) : Out := .next (s.alu opSbb f)

/-- AND (42_arithmetic_logic R405). -/
def execAnd (f : AluForm) (s : State) : Out := .next (s.alu opAnd f).drew

/-- SUB (42_arithmetic_logic R406). -/
def execSub (f : AluForm) (s : State) : Out := .next (s.alu opSub f)

/-- XOR (42_arithmetic_logic R407). -/
def execXor (f : AluForm) (s : State) : Out := .next (s.alu opXor f).drew

/-- CMP (42_arithmetic_logic R408). -/
def execCmp (f : AluForm) (s : State) : Out := .next (s.aluFlags opSub f)

/-- The flags TEST leaves (42_arithmetic_logic R409). -/
def State.testFlags (s : State) (f : TestForm) : Eflags :=
  let w := testWidth s.osz f
  (opAnd w.bits (s.rmVal w (testRm f)) (s.testSrc w f) (s.rmTouch w (testRm f)).flags s.draws).2

/-- TEST (42_arithmetic_logic R409). -/
def execTest (f : TestForm) (s : State) : Out :=
  .next ((s.rmTouch (testWidth s.osz f) (testRm f)).setFlags (s.testFlags f)).drew

/-- Read an r/m operand, set the flags of a primitive and write its result back (42_arithmetic_logic R410 to R413). -/
def State.unary (op : UnOp) (w : Width) (rm : RM) (s : State) : State :=
  let t := s.rmTouch w rm
  let r := op w.bits (s.rmVal w rm) t.flags
  (t.setFlags r.2).placeStore w (s.place rm) r.1

/-- INC (42_arithmetic_logic R410). -/
def execInc (f : IncForm) (s : State) : Out := .next (s.unary opInc (incWidth s.osz f) (incRm f))

/-- DEC (42_arithmetic_logic R411). -/
def execDec (f : IncForm) (s : State) : Out := .next (s.unary opDec (incWidth s.osz f) (incRm f))

/-- NOT (42_arithmetic_logic R412). -/
def execNot (w : OpW) (rm : RM) (s : State) : Out := .next (s.unary opNot (w.width s.osz) rm)

/-- NEG (42_arithmetic_logic R413). -/
def execNeg (w : OpW) (rm : RM) (s : State) : Out := .next (s.unary opNeg (w.width s.osz) rm)

/-! ## Multiply and divide -/

/-- The high register of a width: AH, DX, EDX (40_alu_primitives R285). -/
def highReg : Width → Num8
  | .b8 => .n4
  | .b16 => .n2
  | .b32 => .n2

/-- Write a pair: high register, then low register (40_alu_primitives R285). -/
def Bank.setPair (b : Bank) (w : Width) (hi lo : BitVec w.bits) : Bank :=
  (b.setRn w (highReg w) hi).setRn w .n0 lo

/-- The 2N-bit value of a pair: AX, DX:AX, EDX:EAX (40_alu_primitives R288). -/
def Bank.pair (b : Bank) (w : Width) : BitVec (w.bits + w.bits) := b.rn w (highReg w) ++ b.rn w .n0

/-- One-operand multiply: the pair, CF and OF, and four free flags (40_alu_primitives R285, R286). -/
def State.multiply (op : (n : Nat) → BitVec n → BitVec n → BitVec n × BitVec n × Bool) (w : Width) (rm : RM)
    (s : State) : State :=
  let t := s.rmTouch w rm
  let r := op w.bits (t.regs.rn w .n0) (s.rmVal w rm)
  ((t.setRegs (t.regs.setPair w r.1 r.2.1)).setFlags (t.flags.multiplied s.draws r.2.2)).drew

/-- MUL (42_arithmetic_logic R414). -/
def execMul (w : OpW) (rm : RM) (s : State) : Out := .next (s.multiply opMul (w.width s.osz) rm)

/-- IMUL with one operand (42_arithmetic_logic R415). -/
def execImul (w : OpW) (rm : RM) (s : State) : Out := .next (s.multiply opImul (w.width s.osz) rm)

/-- A truncating multiply of a value by an r/m operand into a register (40_alu_primitives R287). -/
def State.multiplyInto (w : Width) (r : Num8) (rm : RM) (b : BitVec w.bits) (s : State) : State :=
  let t := s.rmTouch w rm
  let p := opImul2 w.bits (s.rmVal w rm) b
  ((t.setReg w r p.1).setFlags (t.flags.multiplied s.draws p.2)).drew

/-- IMUL with two operands (42_arithmetic_logic R416). -/
def execImul2 (r : Num8) (rm : RM) (s : State) : Out :=
  .next (s.multiplyInto s.osz.width r rm (s.regs.rn s.osz.width r))

/-- IMUL with three operands (42_arithmetic_logic R417). -/
def execImul3 (r : Num8) (rm : RM) (i : ImulImm) (s : State) : Out :=
  match i with
  | .iz z => .next (s.multiplyInto s.osz.width r rm (izVal s.osz.width z))
  | .ib v => .next (s.multiplyInto s.osz.width r rm (v.signExtend s.osz.width.bits))

/-- Divide, the divisor having been read: the pair becomes remainder and quotient and all six flags are free, or #DE is
raised and nothing is written (40_alu_primitives R288, R289). -/
def State.divide (w : Width) (qr : Option (BitVec w.bits × BitVec w.bits)) (s : State) : State :=
  match qr with
  | none => s.raise .de
  | some (q, r) => ((s.setRegs (s.regs.setPair w r q)).setFlags (s.flags.allFree s.draws)).drew

/-- DIV (42_arithmetic_logic R418). -/
def execDiv (w : OpW) (rm : RM) (s : State) : Out :=
  let n := w.width s.osz
  let t := s.rmTouch n rm
  .next (t.divide n (opDiv n.bits (t.regs.pair n).toNat (s.rmVal n rm)))

/-- IDIV (42_arithmetic_logic R419). -/
def execIdiv (w : OpW) (rm : RM) (s : State) : Out :=
  let n := w.width s.osz
  let t := s.rmTouch n rm
  .next (t.divide n (opIdiv n.bits (t.regs.pair n).toInt (s.rmVal n rm)))

end Sys2Proof.Machine
end

