-- ==== Sys2Proof/Machine/Control.lean ====
section
/-! DEFINITION. Control transfer: conditional and unconditional jumps, calls, returns, loops, software interrupts and
BOUND (43_control_transfer.md). -/

namespace Sys2Proof.Machine

/-- Go to a relative target when `taken` (43_control_transfer R480). -/
def State.branch (taken : Bool) (rel : Rel) (s : State) : State :=
  s.setEip (if taken then s.relTarget rel else s.eip)

/-- A conditional jump (43_control_transfer R482, R483). -/
def State.jcc (c : Cond) (rel : Rel) (s : State) : State := s.branch (condHolds s.flags c) rel

/-- JO (43_control_transfer R482, R483). -/
def execJo (rel : Rel) (s : State) : Out := .next (s.jcc .o rel)

/-- JNO (43_control_transfer R482, R483). -/
def execJno (rel : Rel) (s : State) : Out := .next (s.jcc .no rel)

/-- JB (43_control_transfer R482, R483). -/
def execJb (rel : Rel) (s : State) : Out := .next (s.jcc .b rel)

/-- JNB (43_control_transfer R482, R483). -/
def execJnb (rel : Rel) (s : State) : Out := .next (s.jcc .nb rel)

/-- JZ (43_control_transfer R482, R483). -/
def execJz (rel : Rel) (s : State) : Out := .next (s.jcc .z rel)

/-- JNZ (43_control_transfer R482, R483). -/
def execJnz (rel : Rel) (s : State) : Out := .next (s.jcc .nz rel)

/-- JBE (43_control_transfer R482, R483). -/
def execJbe (rel : Rel) (s : State) : Out := .next (s.jcc .be rel)

/-- JNBE (43_control_transfer R482, R483). -/
def execJnbe (rel : Rel) (s : State) : Out := .next (s.jcc .nbe rel)

/-- JS (43_control_transfer R482, R483). -/
def execJs (rel : Rel) (s : State) : Out := .next (s.jcc .s rel)

/-- JNS (43_control_transfer R482, R483). -/
def execJns (rel : Rel) (s : State) : Out := .next (s.jcc .ns rel)

/-- JP (43_control_transfer R482, R483). -/
def execJp (rel : Rel) (s : State) : Out := .next (s.jcc .p rel)

/-- JNP (43_control_transfer R482, R483). -/
def execJnp (rel : Rel) (s : State) : Out := .next (s.jcc .np rel)

/-- JL (43_control_transfer R482, R483). -/
def execJl (rel : Rel) (s : State) : Out := .next (s.jcc .l rel)

/-- JNL (43_control_transfer R482, R483). -/
def execJnl (rel : Rel) (s : State) : Out := .next (s.jcc .nl rel)

/-- JLE (43_control_transfer R482, R483). -/
def execJle (rel : Rel) (s : State) : Out := .next (s.jcc .le rel)

/-- JNLE (43_control_transfer R482, R483). -/
def execJnle (rel : Rel) (s : State) : Out := .next (s.jcc .nle rel)

/-! ## Jumps -/

/-- JMP, relative (43_control_transfer R484). -/
def execJmp (rel : Rel) (s : State) : Out := .next (s.branch true rel)

/-- The near target an indirect jump or call reads: OS bits, zero-extended (43_control_transfer R485). -/
def State.nearTarget (s : State) (rm : RM) : Word := (s.rmVal s.osz.width rm).setWidth 32

/-- The state the call/jump hook leaves of an indirect near transfer whose target has been read; none where the hook
does not apply: a register operand, no hook, or a hook not defined for the target (43_control_transfer R504; log entry
9). -/
def State.hooked (s : State) (k : CallKind) (rm : RM) : Option State :=
  match rm with
  | .reg _ => none
  | .mem _ =>
    if s.cfg.callJmpHook then
      (Config.callJmpHook k (s.nearTarget rm) (s.rmTouch s.osz.width rm)).map (s.rmTouch s.osz.width rm).resume
    else none

/-- JMP, near indirect (43_control_transfer R485). -/
def execJmpRm (rm : RM) (s : State) : Out :=
  .next ((s.hooked .jump rm).getD ((s.rmTouch s.osz.width rm).setEip (s.nearTarget rm)))

/-- The offset of a far pointer in the instruction, zero-extended. -/
def farOff (p : FarPtr) : Word := izVal .b32 p.off

/-- JMP, far direct (43_control_transfer R486). -/
def execJmpFar (p : FarPtr) (s : State) : Out := .next (s.farJump p.sel (farOff p))

/-- JMP, far indirect (43_control_transfer R487). -/
def execJmpFarMem (m : MemRef) (s : State) : Out := .next ((s.farTouch m).farJump (s.farSel m) ((s.farOff m).setWidth 32))

/-! ## Calls and returns -/

/-- Push the return offset, then go to the target (43_control_transfer R488, R489). -/
def State.nearCall (w : Width) (t : Word) (s : State) : State := (s.push w (s.eip.setWidth w.bits)).setEip t

/-- CALL, relative (43_control_transfer R488). -/
def execCall (rel : Iz) (s : State) : Out := .next (s.nearCall s.osz.width (s.relTarget (.near rel)))

/-- CALL, near indirect: the target is read before the push (43_control_transfer R489). -/
def execCallRm (rm : RM) (s : State) : Out :=
  .next ((s.hooked .call rm).getD ((s.rmTouch s.osz.width rm).nearCall s.osz.width (s.nearTarget rm)))

/-- CALL, far direct (43_control_transfer R490). -/
def execCallFar (p : FarPtr) (s : State) : Out := .next (s.farCall s.osz.width p.sel (farOff p))

/-- CALL, far indirect (43_control_transfer R491). -/
def execCallFarMem (m : MemRef) (s : State) : Out :=
  .next ((s.farTouch m).farCall s.osz.width (s.farSel m) ((s.farOff m).setWidth 32))

/-- Pop the return offset and release `extra` bytes (43_control_transfer R492). -/
def State.nearReturn (extra : Word) (s : State) : State :=
  ((s.popped s.osz.width).adjustSp extra).setEip ((s.top s.osz.width).setWidth 32)

/-- RET (43_control_transfer R492). -/
def execRet (s : State) : Out := .next (s.nearReturn 0)

/-- RET with released bytes (43_control_transfer R492). -/
def execRetImm (iw : BitVec 16) (s : State) : Out := .next (s.nearReturn (iw.setWidth 32))

/-- RETF (43_control_transfer R493). -/
def execRetf (s : State) : Out := .next (s.farReturn s.osz.width 0)

/-- RETF with released bytes (43_control_transfer R493). -/
def execRetfImm (iw : BitVec 16) (s : State) : Out := .next (s.farReturn s.osz.width (iw.setWidth 32))

/-- IRET, 16 bits (43_control_transfer R494). -/
def execIret (s : State) : Out := .next (s.interruptReturn .b16)

/-- IRETD, 32 bits (43_control_transfer R494). -/
def execIretd (s : State) : Out := .next (s.interruptReturn .b32)

/-! ## Loops -/

/-- Count CX or ECX down and branch while it is not 0 and `cond` holds (43_control_transfer R495 to R497). -/
def State.loopOn (cond : Bool) (rel : BitVec 8) (s : State) : State :=
  let s1 := s.setRegs (s.withAsReg .n1 (s.asReg .n1 - 1))
  s1.branch (decide (s1.asReg .n1 ≠ 0) && cond) (.short rel)

/-- LOOP (43_control_transfer R495). -/
def execLoop (rel : BitVec 8) (s : State) : Out := .next (s.loopOn true rel)

/-- LOOPE (43_control_transfer R496). -/
def execLoope (rel : BitVec 8) (s : State) : Out := .next (s.loopOn s.flags.zf rel)

/-- LOOPNE (43_control_transfer R497). -/
def execLoopne (rel : BitVec 8) (s : State) : Out := .next (s.loopOn (!s.flags.zf) rel)

/-- JCXZ, JECXZ (43_control_transfer R498). -/
def execJcxz (rel : BitVec 8) (s : State) : Out := .next (s.branch (decide (s.asReg .n1 = 0)) (.short rel))

/-! ## Software interrupts and checks -/

/-- INT n (43_control_transfer R499). -/
def execInt (v : Byte) (s : State) : Out := .next (s.raise (.sw v))

/-- INT3 (43_control_transfer R500). -/
def execInt3 (s : State) : Out := .next (s.raise (.sw 3))

/-- INTO (43_control_transfer R501). -/
def execInto (s : State) : Out := .next (if s.flags.ovf then s.raise (.sw 4) else s)

/-- BOUND (43_control_transfer R502). -/
def execBound (r : Num8) (m : MemRef) (s : State) : Out :=
  let w := s.osz.width
  let i := s.regs.rn w r
  let s1 := s.eaTouch w m 0
  let s2 := s1.placeTouch w (s.eaPlace m w.bytes)
  .next (if i.slt (s.eaVal w m 0) || (s1.placeVal w (s.eaPlace m w.bytes)).slt i then s2.raise .br else s2)

end Sys2Proof.Machine
end

