-- ==== Sys2Proof/Machine/Decimal.lean ====
section
/-! DEFINITION. Decimal and ASCII adjustment and the single-flag instructions (42_arithmetic_logic R436 to R446). -/

namespace Sys2Proof.Machine

/-- The adjustment by 6 applies: the low digit is above 9 or AF is set (42_arithmetic_logic R436 to R439). -/
def State.lowAdjust (s : State) : Bool := decide (9 < (s.regs.r8 .n0 &&& 0x0F).toNat) || s.flags.af

/-- The adjustment by 0x60 applies: AL is above 0x99 or CF is set (42_arithmetic_logic R436, R437). -/
def State.highAdjust (s : State) : Bool := decide (0x99 < (s.regs.r8 .n0).toNat) || s.flags.cf

/-- DAA (42_arithmetic_logic R436). -/
def execDaa (s : State) : Out :=
  let a1 := if s.lowAdjust then s.regs.r8 .n0 + 6 else s.regs.r8 .n0
  let a2 := if s.highAdjust then a1 + 0x60 else a1
  .next ((s.setReg .b8 .n0 a2).setFlags
    { s.flags.szp a2 with af := s.lowAdjust, cf := s.highAdjust, ovf := Config.freeFlag s.draws .ovf }).drew

/-- DAS (42_arithmetic_logic R437). -/
def execDas (s : State) : Out :=
  let a := s.regs.r8 .n0
  let a1 := if s.lowAdjust then a - 6 else a
  let a2 := if s.highAdjust then a1 - 0x60 else a1
  let borrow := s.lowAdjust && (s.flags.cf || decide (a.toNat < 6))
  .next ((s.setReg .b8 .n0 a2).setFlags
    { s.flags.szp a2 with
      af := s.lowAdjust, cf := borrow || s.highAdjust, ovf := Config.freeFlag s.draws .ovf }).drew

/-- The flags of AAA and AAS: AF and CF say whether it adjusted, OF SF ZF PF are free (42_arithmetic_logic R438, U8). -/
def State.asciiFlags (s : State) : Eflags :=
  { s.flags with
    af := s.lowAdjust, cf := s.lowAdjust, ovf := Config.freeFlag s.draws .ovf, sf := Config.freeFlag s.draws .sf,
    zf := Config.freeFlag s.draws .zf, pf := Config.freeFlag s.draws .pf }

/-- AAA (42_arithmetic_logic R438). -/
def execAaa (s : State) : Out :=
  let ax := if s.lowAdjust then s.regs.r16 .n0 + 0x106 else s.regs.r16 .n0
  .next ((s.setReg .b16 .n0 (ax &&& 0xFF0F)).setFlags s.asciiFlags).drew

/-- AAS (42_arithmetic_logic R439). -/
def execAas (s : State) : Out :=
  let ax := if s.lowAdjust then s.regs.r16 .n0 - 6 - 0x100 else s.regs.r16 .n0
  .next ((s.setReg .b16 .n0 (ax &&& 0xFF0F)).setFlags s.asciiFlags).drew

/-- The flags of AAM and AAD: SetSZP of AL; OF, AF, CF free (42_arithmetic_logic R440, R441, U8). -/
def State.baseFlags (s : State) (al : Byte) : Eflags :=
  { s.flags.szp al with
    ovf := Config.freeFlag s.draws .ovf, af := Config.freeFlag s.draws .af, cf := Config.freeFlag s.draws .cf }

/-- AAM (42_arithmetic_logic R440). -/
def execAam (ib : Byte) (s : State) : Out :=
  if ib = 0 then .next (s.raise .de)
  else
    let al := s.regs.r8 .n0 % ib
    .next (((s.setReg .b8 .n4 (s.regs.r8 .n0 / ib)).setReg .b8 .n0 al).setFlags (s.baseFlags al)).drew

/-- AAD (42_arithmetic_logic R441). -/
def execAad (ib : Byte) (s : State) : Out :=
  let al := s.regs.r8 .n0 + s.regs.r8 .n4 * ib
  .next (((s.setReg .b8 .n4 0).setReg .b8 .n0 al).setFlags (s.baseFlags al)).drew

/-- CLC (42_arithmetic_logic R442). -/
def execClc (s : State) : Out := .next (s.setFlags { s.flags with cf := false })

/-- STC (42_arithmetic_logic R443). -/
def execStc (s : State) : Out := .next (s.setFlags { s.flags with cf := true })

/-- CMC (42_arithmetic_logic R444). -/
def execCmc (s : State) : Out := .next (s.setFlags { s.flags with cf := !s.flags.cf })

/-- CLD (42_arithmetic_logic R445). -/
def execCld (s : State) : Out := .next (s.setFlags { s.flags with df := false })

/-- STD (42_arithmetic_logic R446). -/
def execStd (s : State) : Out := .next (s.setFlags { s.flags with df := true })

end Sys2Proof.Machine
end

