-- ==== Sys2Proof/Machine/Move.lean ====
section
/-! DEFINITION. Moves, exchanges, far-pointer loads, width conversions and flag transfers without the stack
(41_data_movement R321 to R329, R341 to R348). -/

namespace Sys2Proof.Machine

/-- MOV, general forms (41_data_movement R321 to R324). -/
def execMov (f : MovForm) (s : State) : Out :=
  match f with
  | .rmR w rm r => .next (s.rmStore (w.width s.osz) rm (s.regs.rn (w.width s.osz) r))
  | .rRm w r rm =>
    .next ((s.rmTouch (w.width s.osz) rm).setReg (w.width s.osz) r (s.rmVal (w.width s.osz) rm))
  | .ebIb rm v => .next (s.rmStore .b8 rm v)
  | .evIz rm z => .next (s.rmStore s.osz.width rm (izVal s.osz.width z))
  | .rIb r v => .next (s.setReg .b8 r v)
  | .rIz r z => .next (s.setReg s.osz.width r (izVal s.osz.width z))
  | .accOff w o =>
    let n := w.width s.osz
    .next ((s.segTouch n s.dataSeg (moffsVal o)).setReg n .n0 (s.segVal n s.dataSeg (moffsVal o)))
  | .offAcc w o =>
    let n := w.width s.osz
    .next (s.segStore n s.dataSeg (moffsVal o) (s.regs.rn n .n0))

/-- Store a 16-bit system value: to a register zero-extended to OS, to memory always 16 bits
(41_data_movement R325; 45_system R590, R591). -/
def State.storeWord (rm : RM) (v : BitVec 16) (s : State) : State :=
  match rm with
  | .reg r => s.setReg s.osz.width r (v.setWidth s.osz.width.bits)
  | .mem m => s.segStore .b16 (s.eaSeg m) (s.eaOff m) v

/-- MOV from a segment register (41_data_movement R325). -/
def execMovFromSeg (g : Seg) (rm : RM) (s : State) : Out := .next (s.storeWord rm (s.segs.get g).sel)

/-- MOV to a segment register (41_data_movement R326). -/
def execMovToSeg (g : Seg) (rm : RM) (s : State) : Out :=
  .next (loadSeg g (s.rmVal .b16 rm) (s.rmTouch .b16 rm) id)

/-- The width of the source of MOVZX and MOVSX: Eb or Ew (41_data_movement R327, R328). -/
def narrowWidth : OpW → Width
  | .b => .b8
  | .v => .b16

/-- MOVZX (41_data_movement R327). -/
def execMovzx (w : OpW) (r : Num8) (rm : RM) (s : State) : Out :=
  let n := narrowWidth w
  .next ((s.rmTouch n rm).setReg s.osz.width r ((s.rmVal n rm).setWidth s.osz.width.bits))

/-- MOVSX (41_data_movement R328). -/
def execMovsx (w : OpW) (r : Num8) (rm : RM) (s : State) : Out :=
  let n := narrowWidth w
  .next ((s.rmTouch n rm).setReg s.osz.width r ((s.rmVal n rm).signExtend s.osz.width.bits))

/-- LEA: no memory is accessed (41_data_movement R329). -/
def execLea (r : Num8) (m : MemRef) (s : State) : Out :=
  .next (s.setReg s.osz.width r ((s.eaOff m).setWidth s.osz.width.bits))

/-! ## Exchange and translate -/

/-- XCHG (41_data_movement R341, R342). -/
def execXchg (f : XchgForm) (s : State) : Out :=
  match f with
  | .rmR w rm r =>
    let n := w.width s.osz
    let t := s.rmTouch n rm
    .next ((t.placeStore n (s.place rm) (t.regs.rn n r)).setReg n r (s.rmVal n rm))
  | .acc r =>
    let n := s.osz.width
    .next ((s.setReg n .n0 (s.regs.rn n r)).setReg n r (s.regs.rn n .n0))

/-- NOP: the exchange of the accumulator with itself (41_data_movement R342, 30_encoding R207). -/
def execNop (s : State) : Out := .next s

/-- The offset XLAT reads at: BX or EBX plus AL, at the address size (41_data_movement R343). -/
def State.xlatOff (s : State) : Word := s.asz.trunc (s.regs.r3 + (s.regs.r8 .n0).setWidth 32)

/-- XLAT (41_data_movement R343). -/
def execXlat (s : State) : Out :=
  .next ((s.segTouch .b8 s.dataSeg s.xlatOff).setReg .b8 .n0 (s.segVal .b8 s.dataSeg s.xlatOff))

/-! ## Far-pointer loads -/

/-- Read a far pointer, load the segment register, then the general register (41_data_movement R344). -/
def State.loadFar (g : Seg) (r : Num8) (m : MemRef) (s : State) : State :=
  loadSeg g (s.farSel m) (s.farTouch m) fun s1 => s1.setReg s.osz.width r (s.farOff m)

/-- LDS (41_data_movement R344). -/
def execLds (r : Num8) (m : MemRef) (s : State) : Out := .next (s.loadFar .ds r m)

/-- LES (41_data_movement R344). -/
def execLes (r : Num8) (m : MemRef) (s : State) : Out := .next (s.loadFar .es r m)

/-- LFS (41_data_movement R344). -/
def execLfs (r : Num8) (m : MemRef) (s : State) : Out := .next (s.loadFar .fs r m)

/-- LGS (41_data_movement R344). -/
def execLgs (r : Num8) (m : MemRef) (s : State) : Out := .next (s.loadFar .gs r m)

/-- LSS (41_data_movement R344). -/
def execLss (r : Num8) (m : MemRef) (s : State) : Out := .next (s.loadFar .ss r m)

/-! ## Width conversions -/

/-- CBW (41_data_movement R345). -/
def execCbw (s : State) : Out := .next (s.setReg .b16 .n0 ((s.regs.r8 .n0).signExtend 16))

/-- CWDE (41_data_movement R345). -/
def execCwde (s : State) : Out := .next (s.setReg .b32 .n0 ((s.regs.r16 .n0).signExtend 32))

/-- CWD (41_data_movement R346). -/
def execCwd (s : State) : Out := .next (s.setReg .b16 .n2 (if (s.regs.r16 .n0).msb then 0xFFFF else 0x0000))

/-- CDQ (41_data_movement R346). -/
def execCdq (s : State) : Out := .next (s.setReg .b32 .n2 (if s.regs.r0.msb then 0xFFFFFFFF else 0x00000000))

/-! ## LAHF and SAHF -/

/-- LAHF (41_data_movement R347). -/
def execLahf (s : State) : Out := .next (s.setReg .b8 .n4 (s.flags.toWord.extractLsb' 0 8))

/-- SAHF (41_data_movement R348). -/
def execSahf (s : State) : Out :=
  let v := s.regs.r8 .n4
  .next (s.setFlags { s.flags with
    sf := v.getLsbD 7, zf := v.getLsbD 6, af := v.getLsbD 4, pf := v.getLsbD 2, cf := v.getLsbD 0 })

end Sys2Proof.Machine
end

