-- ==== Sys2Proof/Machine/Prefixes.lean ====
section
/-! DEFINITION. The prefix bytes: each writes its field of PFX and nothing else (30_encoding R174 to R176). -/

namespace Sys2Proof.Machine

/-- A segment override: the last one read wins (30_encoding R174, R176). -/
def State.overrideSeg (g : Seg) (s : State) : State := s.setPfx { s.pfx with seg := some g }

/-- `ES:` (30_encoding R174). -/
def execPfxEs (s : State) : Out := .next (s.overrideSeg .es)

/-- `CS:` (30_encoding R174). -/
def execPfxCs (s : State) : Out := .next (s.overrideSeg .cs)

/-- `SS:` (30_encoding R174). -/
def execPfxSs (s : State) : Out := .next (s.overrideSeg .ss)

/-- `DS:` (30_encoding R174). -/
def execPfxDs (s : State) : Out := .next (s.overrideSeg .ds)

/-- `FS:` (30_encoding R174). -/
def execPfxFs (s : State) : Out := .next (s.overrideSeg .fs)

/-- `GS:` (30_encoding R174). -/
def execPfxGs (s : State) : Out := .next (s.overrideSeg .gs)

/-- Operand-size override: set, not toggled (30_encoding R174, R176). -/
def execPfxOpSize (s : State) : Out := .next (s.setPfx { s.pfx with opsz := true })

/-- Address-size override (30_encoding R174, R176). -/
def execPfxAdSize (s : State) : Out := .next (s.setPfx { s.pfx with adsz := true })

/-- LOCK: recorded, and without any effect (30_encoding R174, 20_memory R143). -/
def execPfxLock (s : State) : Out := .next (s.setPfx { s.pfx with lock := true })

/-- REPNE (30_encoding R174, R176). -/
def execPfxRepne (s : State) : Out := .next (s.setPfx { s.pfx with rep := some .repne })

/-- REP, REPE (30_encoding R174, R176). -/
def execPfxRep (s : State) : Out := .next (s.setPfx { s.pfx with rep := some .rep })

end Sys2Proof.Machine
end

