-- ==== Sys2Proof/Machine/Setcc.lean ====
section
/-! DEFINITION. The conditional byte sets (41_data_movement R356). -/

namespace Sys2Proof.Machine

/-- Write 1 to a byte operand when the condition holds, else 0 (41_data_movement R356). -/
def State.setcc (c : Cond) (rm : RM) (s : State) : State :=
  s.rmStore .b8 rm (if condHolds s.flags c then 1 else 0)

/-- SETO (41_data_movement R356). -/
def execSeto (rm : RM) (s : State) : Out := .next (s.setcc .o rm)

/-- SETNO (41_data_movement R356). -/
def execSetno (rm : RM) (s : State) : Out := .next (s.setcc .no rm)

/-- SETB (41_data_movement R356). -/
def execSetb (rm : RM) (s : State) : Out := .next (s.setcc .b rm)

/-- SETNB (41_data_movement R356). -/
def execSetnb (rm : RM) (s : State) : Out := .next (s.setcc .nb rm)

/-- SETZ (41_data_movement R356). -/
def execSetz (rm : RM) (s : State) : Out := .next (s.setcc .z rm)

/-- SETNZ (41_data_movement R356). -/
def execSetnz (rm : RM) (s : State) : Out := .next (s.setcc .nz rm)

/-- SETBE (41_data_movement R356). -/
def execSetbe (rm : RM) (s : State) : Out := .next (s.setcc .be rm)

/-- SETNBE (41_data_movement R356). -/
def execSetnbe (rm : RM) (s : State) : Out := .next (s.setcc .nbe rm)

/-- SETS (41_data_movement R356). -/
def execSets (rm : RM) (s : State) : Out := .next (s.setcc .s rm)

/-- SETNS (41_data_movement R356). -/
def execSetns (rm : RM) (s : State) : Out := .next (s.setcc .ns rm)

/-- SETP (41_data_movement R356). -/
def execSetp (rm : RM) (s : State) : Out := .next (s.setcc .p rm)

/-- SETNP (41_data_movement R356). -/
def execSetnp (rm : RM) (s : State) : Out := .next (s.setcc .np rm)

/-- SETL (41_data_movement R356). -/
def execSetl (rm : RM) (s : State) : Out := .next (s.setcc .l rm)

/-- SETNL (41_data_movement R356). -/
def execSetnl (rm : RM) (s : State) : Out := .next (s.setcc .nl rm)

/-- SETLE (41_data_movement R356). -/
def execSetle (rm : RM) (s : State) : Out := .next (s.setcc .le rm)

/-- SETNLE (41_data_movement R356). -/
def execSetnle (rm : RM) (s : State) : Out := .next (s.setcc .nle rm)

end Sys2Proof.Machine
end

