-- ==== Sys2Proof/Machine/Shift.lean ====
section
/-! DEFINITION. Shifts and rotates, bit tests and bit scans (42_arithmetic_logic R420 to R435). -/

namespace Sys2Proof.Machine

/-- A shift primitive: width, operand, masked count, flags before and draw to result and flags after. -/
abbrev ShiftOp := (n : Nat) → BitVec n → Nat → Eflags → Nat → BitVec n × Eflags

/-- Group 2: read the operand, shift it, write it back even for a count of 0 (42_arithmetic_logic R420). -/
def State.shift (op : ShiftOp) (w : Width) (rm : RM) (c : ShCount) (s : State) : State :=
  let t := s.rmTouch w rm
  let r := op w.bits (s.rmVal w rm) (s.shCount c) t.flags s.draws
  ((t.setFlags r.2).placeStore w (s.place rm) r.1).drew

/-- ROL (42_arithmetic_logic R421). -/
def execRol (w : OpW) (rm : RM) (c : ShCount) (s : State) : Out :=
  .next (s.shift (fun n => opRol n s.cfg.rotFullUpdatesCf) (w.width s.osz) rm c)

/-- ROR (42_arithmetic_logic R422). -/
def execRor (w : OpW) (rm : RM) (c : ShCount) (s : State) : Out :=
  .next (s.shift (fun n => opRor n s.cfg.rotFullUpdatesCf) (w.width s.osz) rm c)

/-- RCL (42_arithmetic_logic R423). -/
def execRcl (w : OpW) (rm : RM) (c : ShCount) (s : State) : Out := .next (s.shift opRcl (w.width s.osz) rm c)

/-- RCR (42_arithmetic_logic R424). -/
def execRcr (w : OpW) (rm : RM) (c : ShCount) (s : State) : Out := .next (s.shift opRcr (w.width s.osz) rm c)

/-- SHL (42_arithmetic_logic R425). -/
def execShl (w : OpW) (rm : RM) (c : ShCount) (s : State) : Out := .next (s.shift opShl (w.width s.osz) rm c)

/-- SHR (42_arithmetic_logic R426). -/
def execShr (w : OpW) (rm : RM) (c : ShCount) (s : State) : Out := .next (s.shift opShr (w.width s.osz) rm c)

/-- SAR (42_arithmetic_logic R427). -/
def execSar (w : OpW) (rm : RM) (c : ShCount) (s : State) : Out := .next (s.shift opSar (w.width s.osz) rm c)

/-- A double-precision shift (42_arithmetic_logic R428, R429). -/
def State.doubleShift (op : (n : Nat) → BitVec n → BitVec n → Nat → Eflags → Nat → BitVec n × Eflags) (rm : RM)
    (r : Num8) (c : DShCount) (s : State) : State :=
  let w := s.osz.width
  let t := s.rmTouch w rm
  let x := op w.bits (s.rmVal w rm) (t.regs.rn w r) (s.dshCount c) t.flags s.draws
  ((t.setFlags x.2).placeStore w (s.place rm) x.1).drew

/-- SHLD (42_arithmetic_logic R428). -/
def execShld (rm : RM) (r : Num8) (c : DShCount) (s : State) : Out := .next (s.doubleShift opShld rm r c)

/-- SHRD (42_arithmetic_logic R429). -/
def execShrd (rm : RM) (r : Num8) (c : DShCount) (s : State) : Out := .next (s.doubleShift opShrd rm r c)

/-! ## Bit test -/

/-- The flags of a bit test: CF is the bit, OF SF AF PF are free, ZF is kept (42_arithmetic_logic R430). -/
def State.bitFlags (s : State) (rm : RM) (i : BitIdx) : Eflags :=
  let w := s.osz.width
  let p := s.bitPlace w rm i
  { (s.placeTouch w p).flags.bitFree s.draws with cf := (s.placeVal w p).getLsbD (s.bitNum w i) }

/-- Test a bit and write the word back changed by `op`, which takes the word and the mask of the bit
(42_arithmetic_logic R431 to R433). -/
def State.bitModify (op : (n : Nat) → BitVec n → BitVec n → BitVec n) (rm : RM) (i : BitIdx) (s : State) : State :=
  let w := s.osz.width
  let p := s.bitPlace w rm i
  let v := op w.bits (s.placeVal w p) (BitVec.ofNat w.bits (2 ^ s.bitNum w i))
  (((s.placeTouch w p).setFlags (s.bitFlags rm i)).placeStore w p v).drew

/-- BT (42_arithmetic_logic R430). -/
def execBt (rm : RM) (i : BitIdx) (s : State) : Out :=
  let w := s.osz.width
  .next ((s.placeTouch w (s.bitPlace w rm i)).setFlags (s.bitFlags rm i)).drew

/-- BTS (42_arithmetic_logic R431). -/
def execBts (rm : RM) (i : BitIdx) (s : State) : Out := .next (s.bitModify (fun _ v k => v ||| k) rm i)

/-- BTR (42_arithmetic_logic R432). -/
def execBtr (rm : RM) (i : BitIdx) (s : State) : Out := .next (s.bitModify (fun _ v k => v &&& ~~~k) rm i)

/-- BTC (42_arithmetic_logic R433). -/
def execBtc (rm : RM) (i : BitIdx) (s : State) : Out := .next (s.bitModify (fun _ v k => v ^^^ k) rm i)

/-! ## Bit scan -/

/-- A bit scan: the bit number, or on a zero operand ZF and a free value (42_arithmetic_logic R434, U7). -/
def State.bitScan (scan : (n : Nat) → BitVec n → Nat) (r : Num8) (rm : RM) (s : State) : State :=
  let w := s.osz.width
  let v := s.rmVal w rm
  let t := s.rmTouch w rm
  let res := if v = 0 then (Config.freeWord s.draws).setWidth w.bits else BitVec.ofNat w.bits (scan w.bits v)
  ((t.setReg w r res).setFlags { t.flags.allFree s.draws with zf := v == 0 }).drew

/-- BSF (42_arithmetic_logic R434). -/
def execBsf (r : Num8) (rm : RM) (s : State) : Out := .next (s.bitScan lowestBit r rm)

/-- BSR (42_arithmetic_logic R435). -/
def execBsr (r : Num8) (rm : RM) (s : State) : Out := .next (s.bitScan highestBit r rm)

end Sys2Proof.Machine
end

