-- ==== Sys2Proof/Machine/Stack.lean ====
section
/-! DEFINITION. The stack instructions (41_data_movement R332 to R340, R349, R350, R353, R354). -/

namespace Sys2Proof.Machine

/-- Push a register as it is (41_data_movement R332). -/
def State.pushReg (w : Width) (r : Num8) (s : State) : State := s.push w (s.regs.rn w r)

/-- PUSH (41_data_movement R332 to R335). -/
def execPush (f : PushForm) (s : State) : Out :=
  let w := s.osz.width
  match f with
  | .reg r => .next (s.pushReg w r)
  | .ev rm => .next ((s.rmTouch w rm).push w (s.rmVal w rm))
  | .iz z => .next (s.push w (izVal w z))
  | .ib v => .next (s.push w (v.signExtend w.bits))
  | .seg g => .next (s.push w ((s.segs.get g).sel.setWidth w.bits))

/-- Pop into a register; for the stack pointer the popped value wins (41_data_movement R336). -/
def State.popReg (w : Width) (r : Num8) (s : State) : State := (s.popped w).setReg w r (s.top w)

/-- The place POP writes to: the one exception to an address from the registers before the instruction, with the stack
pointer as it is in `t` after the pop (41_data_movement R337). -/
def State.popPlace (s t : State) (rm : RM) : Place := (s.setRegs (s.regs.set .n4 t.regs.r4)).place rm

/-- POP (41_data_movement R336, R337). -/
def execPop (f : PopForm) (s : State) : Out :=
  let w := s.osz.width
  match f with
  | .reg r => .next (s.popReg w r)
  | .ev rm => .next ((s.popped w).placeStore w (s.popPlace (s.popped w) rm) (s.top w))

/-- POP of a segment register: the stack pointer moves only when the load succeeds (41_data_movement R338). -/
def execPopSeg (g : Seg) (s : State) : Out :=
  let w := s.osz.width
  .next (loadSeg g ((s.top w).setWidth 16) (s.segTouch w .ss s.sp) (State.adjustSp (BitVec.ofNat 32 w.bytes)))

/-- Push the eight registers, the fifth being the stack pointer before the first push (41_data_movement R339). -/
def State.pushAll (w : Width) (s : State) : State :=
  (((((((s.pushReg w .n0).pushReg w .n1).pushReg w .n2).pushReg w .n3).push w
    (s.regs.rn w .n4)).pushReg w .n5).pushReg w .n6).pushReg w .n7

/-- PUSHA, 16 bits (41_data_movement R339). -/
def execPusha (s : State) : Out := .next (s.pushAll .b16)

/-- PUSHAD, 32 bits (41_data_movement R339). -/
def execPushad (s : State) : Out := .next (s.pushAll .b32)

/-- Pop the eight registers in reverse; the saved stack pointer is discarded (41_data_movement R340). -/
def State.popAll (w : Width) (s : State) : State :=
  (((((((s.popReg w .n7).popReg w .n6).popReg w .n5).popped w).popReg w .n3).popReg w .n2).popReg w .n1).popReg w .n0

/-- POPA, 16 bits (41_data_movement R340). -/
def execPopa (s : State) : Out := .next (s.popAll .b16)

/-- POPAD, 32 bits (41_data_movement R340). -/
def execPopad (s : State) : Out := .next (s.popAll .b32)

/-- Write EBP or BP by SSZ (41_data_movement R353). -/
def State.withBp (s : State) (v : Word) : Bank :=
  match s.ssz with
  | .s16 => s.regs.setR16 .n5 (v.setWidth 16)
  | .s32 => s.regs.set .n5 v

/-- The frame pointers ENTER copies: one turn per level below the last (41_data_movement R353). -/
def enterLevels (w : Width) : Nat → State → State
  | 0, s => s
  | n + 1, s =>
    let bp := s.ssz.trunc (s.regs.r5 - BitVec.ofNat 32 w.bytes)
    let s1 := s.setRegs (s.withBp bp)
    enterLevels w n ((s1.segTouch w .ss bp).push w (s1.segVal w .ss bp))

/-- ENTER (41_data_movement R353). -/
def execEnter (size : BitVec 16) (level : Byte) (s : State) : Out :=
  let w := s.osz.width
  let lvl := level.toNat % 32
  let s1 := s.push w (s.regs.rn w .n5)
  let frame := s1.sp
  let s2 := if lvl = 0 then s1 else (enterLevels w (lvl - 1) s1).push w (frame.setWidth w.bits)
  .next ((s2.setReg w .n5 (frame.setWidth w.bits)).adjustSp (-(size.setWidth 32)))

/-- LEAVE (41_data_movement R354). -/
def execLeave (s : State) : Out :=
  .next ((s.setRegs (s.withSp (s.ssz.trunc s.regs.r5))).popReg s.osz.width .n5)

/-- PUSHF, 16 bits (41_data_movement R349). -/
def execPushf (s : State) : Out := .next (s.push .b16 (s.flags.toWord.setWidth 16))

/-- PUSHFD, 32 bits (41_data_movement R349). -/
def execPushfd (s : State) : Out := .next (s.push .b32 s.flags.toWord)

/-- Pop the flags (41_data_movement R350). -/
def State.popFlags (w : Width) (s : State) : State :=
  (s.popped w).setFlags ((s.popped w).flagsFrom ((s.top w).setWidth 32))

/-- POPF, 16 bits (41_data_movement R350). -/
def execPopf (s : State) : Out := .next (s.popFlags .b16)

/-- POPFD, 32 bits (41_data_movement R350). -/
def execPopfd (s : State) : Out := .next (s.popFlags .b32)

end Sys2Proof.Machine
end

