-- ==== Sys2Proof/Machine/Strings.lean ====
section
/-! DEFINITION. The string and port instructions (44_string_io.md). -/

namespace Sys2Proof.Machine

/-! ## One element (44_string_io R542 to R548) -/

/-- MOVS (44_string_io R542). -/
def movsBody (w : Width) (s : State) : State :=
  let v := s.segVal w s.dataSeg (s.asReg .n6)
  let t := s.segTouch w s.dataSeg (s.asReg .n6)
  ((t.segStore w .es (t.asReg .n7) v).stepIndex w .n6).stepIndex w .n7

/-- CMPS: source minus destination (44_string_io R543). -/
def cmpsBody (w : Width) (s : State) : State :=
  let a := s.segVal w s.dataSeg (s.asReg .n6)
  let s1 := s.segTouch w s.dataSeg (s.asReg .n6)
  let b := s1.segVal w .es (s1.asReg .n7)
  let s2 := s1.segTouch w .es (s1.asReg .n7)
  ((s2.setFlags (opSub w.bits a b s2.flags s.draws).2).stepIndex w .n6).stepIndex w .n7

/-- SCAS: accumulator minus memory (44_string_io R544). -/
def scasBody (w : Width) (s : State) : State :=
  let b := s.segVal w .es (s.asReg .n7)
  let t := s.segTouch w .es (s.asReg .n7)
  (t.setFlags (opSub w.bits (t.regs.rn w .n0) b t.flags s.draws).2).stepIndex w .n7

/-- LODS (44_string_io R545). -/
def lodsBody (w : Width) (s : State) : State :=
  let v := s.segVal w s.dataSeg (s.asReg .n6)
  ((s.segTouch w s.dataSeg (s.asReg .n6)).setReg w .n0 v).stepIndex w .n6

/-- STOS (44_string_io R546). -/
def stosBody (w : Width) (s : State) : State :=
  (s.segStore w .es (s.asReg .n7) (s.regs.rn w .n0)).stepIndex w .n7

/-- INS (44_string_io R547). -/
def insBody (w : Width) (s : State) : State :=
  let v := s.portVal w (s.regs.r16 .n2)
  ((s.portTouch w (s.regs.r16 .n2)).segStore w .es (s.asReg .n7) v).stepIndex w .n7

/-- OUTS (44_string_io R548). -/
def outsBody (w : Width) (s : State) : State :=
  let v := s.segVal w s.dataSeg (s.asReg .n6)
  let t := s.segTouch w s.dataSeg (s.asReg .n6)
  (t.portWrite w (t.regs.r16 .n2) v).stepIndex w .n6

/-! ## The instructions -/

/-- MOVSB (44_string_io R542, R541). -/
def execMovsb (s : State) : Out := .next (s.repeated neverStop (movsBody .b8))

/-- MOVSW (44_string_io R542, R541). -/
def execMovsw (s : State) : Out := .next (s.repeated neverStop (movsBody .b16))

/-- MOVSD (44_string_io R542, R541). -/
def execMovsd (s : State) : Out := .next (s.repeated neverStop (movsBody .b32))

/-- CMPSB (44_string_io R543, R541). -/
def execCmpsb (s : State) : Out := .next (s.repeated stopOnZf (cmpsBody .b8))

/-- CMPSW (44_string_io R543, R541). -/
def execCmpsw (s : State) : Out := .next (s.repeated stopOnZf (cmpsBody .b16))

/-- CMPSD (44_string_io R543, R541). -/
def execCmpsd (s : State) : Out := .next (s.repeated stopOnZf (cmpsBody .b32))

/-- SCASB (44_string_io R544, R541). -/
def execScasb (s : State) : Out := .next (s.repeated stopOnZf (scasBody .b8))

/-- SCASW (44_string_io R544, R541). -/
def execScasw (s : State) : Out := .next (s.repeated stopOnZf (scasBody .b16))

/-- SCASD (44_string_io R544, R541). -/
def execScasd (s : State) : Out := .next (s.repeated stopOnZf (scasBody .b32))

/-- LODSB (44_string_io R545, R541). -/
def execLodsb (s : State) : Out := .next (s.repeated neverStop (lodsBody .b8))

/-- LODSW (44_string_io R545, R541). -/
def execLodsw (s : State) : Out := .next (s.repeated neverStop (lodsBody .b16))

/-- LODSD (44_string_io R545, R541). -/
def execLodsd (s : State) : Out := .next (s.repeated neverStop (lodsBody .b32))

/-- STOSB (44_string_io R546, R541). -/
def execStosb (s : State) : Out := .next (s.repeated neverStop (stosBody .b8))

/-- STOSW (44_string_io R546, R541). -/
def execStosw (s : State) : Out := .next (s.repeated neverStop (stosBody .b16))

/-- STOSD (44_string_io R546, R541). -/
def execStosd (s : State) : Out := .next (s.repeated neverStop (stosBody .b32))

/-- INSB (44_string_io R547, R541). -/
def execInsb (s : State) : Out := .next (checkIopl s (State.repeated neverStop (insBody .b8)))

/-- INSW (44_string_io R547, R541). -/
def execInsw (s : State) : Out := .next (checkIopl s (State.repeated neverStop (insBody .b16)))

/-- INSD (44_string_io R547, R541). -/
def execInsd (s : State) : Out := .next (checkIopl s (State.repeated neverStop (insBody .b32)))

/-- OUTSB (44_string_io R548, R541). -/
def execOutsb (s : State) : Out := .next (checkIopl s (State.repeated neverStop (outsBody .b8)))

/-- OUTSW (44_string_io R548, R541). -/
def execOutsw (s : State) : Out := .next (checkIopl s (State.repeated neverStop (outsBody .b16)))

/-- OUTSD (44_string_io R548, R541). -/
def execOutsd (s : State) : Out := .next (checkIopl s (State.repeated neverStop (outsBody .b32)))

/-! ## Ports (44_string_io R549, R550) -/

/-- The port number: an immediate byte zero-extended, or DX (44_string_io R549). -/
def State.portNum (s : State) : PortArg → BitVec 16
  | .imm v => v.setWidth 16
  | .dx => s.regs.r16 .n2

/-- IN (44_string_io R549). -/
def execInp (w : OpW) (p : PortArg) (s : State) : Out :=
  let n := w.width s.osz
  .next (checkIopl s fun s => (s.portTouch n (s.portNum p)).setReg n .n0 (s.portVal n (s.portNum p)))

/-- OUT (44_string_io R550). -/
def execOutp (w : OpW) (p : PortArg) (s : State) : Out :=
  let n := w.width s.osz
  .next (checkIopl s fun s => s.portWrite n (s.portNum p) (s.regs.rn n .n0))

end Sys2Proof.Machine
end

