-- ==== Sys2Proof/Machine/System.lean ====
section
/-! DEFINITION. The system instructions and the invalid-opcode handler (45_system.md). -/

namespace Sys2Proof.Machine

/-! ## Processor control -/

/-- HLT (45_system R581). -/
def execHlt (s : State) : Out := .next (requireCpl0 s (State.haltWith reasonHalt))

/-- CLI (45_system R582). -/
def execCli (s : State) : Out := .next (checkIopl s fun s => s.setFlags { s.flags with ifl := false })

/-- STI (45_system R583). -/
def execSti (s : State) : Out := .next (checkIopl s fun s => s.setFlags { s.flags with ifl := true })

/-- WAIT: no operation (45_system R585). -/
def execWait (s : State) : Out := .next s

/-! ## Protected mode only -/

/-- Write ZF. -/
def State.setZf (z : Bool) (s : State) : State := s.setFlags { s.flags with zf := z }

/-- ARPL (45_system R587). -/
def execArpl (rm : RM) (r : Num8) (s : State) : Out :=
  .next (protectedOnly s fun s =>
    let d := s.rmVal .b16 rm
    let s1 := s.rmTouch .b16 rm
    let rpl := (s1.regs.r16 r).extractLsb' 0 2
    if d.extractLsb' 0 2 < rpl then (s1.placeStore .b16 (s.place rm) (d.extractLsb' 2 14 ++ rpl)).setZf true
    else s1.setZf false)

/-- SLDT (45_system R590). -/
def execSldt (rm : RM) (s : State) : Out := .next (protectedOnly s fun s => s.storeWord rm s.sys.ldtr.sel)

/-- STR (45_system R591). -/
def execStr (rm : RM) (s : State) : Out := .next (protectedOnly s fun s => s.storeWord rm s.sys.tr.sel)

/-- Write LDTR. -/
def State.setLdtr (g : SegReg) (s : State) : State := s.setSys { s.sys with ldtr := g }

/-- Write TR. -/
def State.setTr (g : SegReg) (s : State) : State := s.setSys { s.sys with tr := g }

/-- LLDT (45_system R592). -/
def execLldt (rm : RM) (s : State) : Out :=
  .next (protectedOnly s fun s => requireCpl0 s fun s =>
    let sel := s.rmVal .b16 rm
    let s1 := s.rmTouch .b16 rm
    if isNullSel sel then s1.setLdtr { sel := sel, base := 0, limit := 0, acc := 0 }
    else
      let s2 := s1.sysLoadTouch sel
      match s1.sysLoad [0x2] sel with
      | some g => s2.setLdtr g
      | none => s2.raise (.gp (sel.setWidth 32)))

/-- LTR (45_system R593). -/
def execLtr (rm : RM) (s : State) : Out :=
  .next (protectedOnly s fun s => requireCpl0 s fun s =>
    let sel := s.rmVal .b16 rm
    let s1 := s.rmTouch .b16 rm
    if isNullSel sel then s1.raise (.gp (sel.setWidth 32))
    else
      let s2 := s1.sysLoadTouch sel
      match s1.sysLoad [0x1, 0x9] sel with
      | some g => s2.setTr g
      | none => s2.raise (.gp (sel.setWidth 32)))

/-! ## Descriptor-table registers -/

/-- Store a table register: its 16-bit limit, then its 32-bit base (45_system R594). -/
def State.storeTable (table : Sys → TableReg) (m : MemRef) (s : State) : State :=
  let t := s.placeStore .b16 (s.eaPlace m 0) (table s.sys).limit
  t.placeStore .b32 (s.eaPlace m 2) (table t.sys).base

/-- The table register a memory operand holds; with OS 16 the base has 24 bits (45_system R596). -/
def State.tableVal (s : State) (m : MemRef) : TableReg :=
  let t := s.eaTouch .b16 m 0
  let b : Word := t.placeVal .b32 (s.eaPlace m 2)
  { limit := s.eaVal .b16 m 0
    base := match s.osz with
      | .s16 => b &&& 0x00FFFFFF
      | .s32 => b }

/-- The effect of reading it. -/
def State.tableTouch (m : MemRef) (s : State) : State :=
  (s.eaTouch .b16 m 0).placeTouch .b32 (s.eaPlace m 2)

/-- Write GDTR. -/
def State.setGdtr (v : TableReg) (s : State) : State := s.setSys { s.sys with gdtr := v }

/-- Write IDTR. -/
def State.setIdtr (v : TableReg) (s : State) : State := s.setSys { s.sys with idtr := v }

/-- SGDT (45_system R594). -/
def execSgdt (m : MemRef) (s : State) : Out := .next (s.storeTable Sys.gdtr m)

/-- SIDT (45_system R595). -/
def execSidt (m : MemRef) (s : State) : Out := .next (s.storeTable Sys.idtr m)

/-- LGDT (45_system R596). -/
def execLgdt (m : MemRef) (s : State) : Out :=
  .next (requireCpl0 s fun s => (s.tableTouch m).setGdtr (s.tableVal m))

/-- LIDT (45_system R597). -/
def execLidt (m : MemRef) (s : State) : Out :=
  .next (requireCpl0 s fun s => (s.tableTouch m).setIdtr (s.tableVal m))

/-! ## Control, debug and model-specific registers -/

/-- MOV from a control register (45_system R600). -/
def execMovFromCr (r n : Num8) (s : State) : Out :=
  .next (requireCpl0 s fun s =>
    ((s.setReg .b32 r (s.sys.cr.get n)).setFlags (s.flags.allFree s.draws)).drew)

/-- MOV to a control register (45_system R601). -/
def execMovToCr (n r : Num8) (s : State) : Out :=
  .next (requireCpl0 s fun s =>
    ((s.setSys { s.sys with cr := s.sys.cr.set n (s.regs.get r) }).setFlags (s.flags.allFree s.draws)).drew)

/-- MOV from a debug register (45_system R602). -/
def execMovFromDr (r n : Num8) (s : State) : Out :=
  .next (requireCpl0 s fun s =>
    ((s.setReg .b32 r (s.sys.dr.get n)).setFlags (s.flags.allFree s.draws)).drew)

/-- MOV to a debug register (45_system R603). -/
def execMovToDr (n r : Num8) (s : State) : Out :=
  .next (requireCpl0 s fun s =>
    ((s.setSys { s.sys with dr := s.sys.dr.set n (s.regs.get r) }).setFlags (s.flags.allFree s.draws)).drew)

/-- Write CR0. -/
def State.setCr0 (v : Word) (s : State) : State := s.setSys { s.sys with cr := s.sys.cr.set .n0 v }

/-- SMSW: to a register the low OS bits of CR0, to memory 16 bits (45_system R604). -/
def execSmsw (rm : RM) (s : State) : Out :=
  match rm with
  | .reg r => .next (s.setReg s.osz.width r (s.sys.cr.r0.setWidth s.osz.width.bits))
  | .mem m => .next (s.segStore .b16 (s.eaSeg m) (s.eaOff m) (s.sys.cr.r0.extractLsb' 0 16))

/-- LMSW: bits 3:1 are written, bit 0 can be set and not cleared (45_system R605). -/
def execLmsw (rm : RM) (s : State) : Out :=
  .next (requireCpl0 s fun s =>
    let v := s.rmVal .b16 rm
    let t := s.rmTouch .b16 rm
    let c := t.sys.cr.r0
    t.setCr0
      (c.extractLsb' 4 28 ++ v.extractLsb' 1 3 ++ (c.extractLsb' 0 1 ||| v.extractLsb' 0 1)))

/-- CLTS (45_system R606). -/
def execClts (s : State) : Out := .next (requireCpl0 s fun s => s.setCr0 (s.sys.cr.r0 &&& 0xFFFFFFF7))

/-- `MSRPERM[i]` (10_state R58). -/
def Sys.msrPermAt (y : Sys) (i : Word) : BitVec 2 := Sparse.get 0 y.msrPerm i.toNat

/-- `MSR[i]` (10_state R58). -/
def Sys.msrAt (y : Sys) (i : Word) : BitVec 64 := Sparse.get 0 y.msr i.toNat

/-- Write `MSR[i]` (10_state R58). -/
def Sys.setMsr (y : Sys) (i : Word) (v : BitVec 64) : Sys := { y with msr := Sparse.set 0 y.msr i.toNat v }

/-- RDMSR (45_system R607). -/
def execRdmsr (s : State) : Out :=
  .next (requireCpl0 s fun s =>
    let i := s.regs.r1
    if (s.sys.msrPermAt i).getLsbD 0 then
      (s.setReg .b32 .n0 ((s.sys.msrAt i).extractLsb' 0 32)).setReg .b32 .n2 ((s.sys.msrAt i).extractLsb' 32 32)
    else s.raise (.gp 0))

/-- WRMSR (45_system R608). -/
def execWrmsr (s : State) : Out :=
  .next (requireCpl0 s fun s =>
    let i := s.regs.r1
    if (s.sys.msrPermAt i).getLsbD 1 then s.setSys (s.sys.setMsr i (s.regs.r2 ++ s.regs.r0))
    else s.raise (.gp 0))

/-! ## Invalid opcodes -/

/-- The invalid-opcode handler, of every illegal encoding alike (45_system R618, R619; 30_encoding R203). -/
def execUd (_ : UdForm) (s : State) : Out := .next (s.raise .ud)

end Sys2Proof.Machine
end

