-- ==== Sys2Proof/Machine/Dispatch.lean ====
section
/-! DEFINITION. The dispatch: each instruction to its meaning. -/

namespace Sys2Proof.Machine

def exec (i : Instr) (s : State) : Host.Outcome State Fault Refusal :=
  match i with
  -- prefix bytes (30_encoding R174)
  | .pfxEs => Sys2Proof.Machine.execPfxEs s
  | .pfxCs => Sys2Proof.Machine.execPfxCs s
  | .pfxSs => Sys2Proof.Machine.execPfxSs s
  | .pfxDs => Sys2Proof.Machine.execPfxDs s
  | .pfxFs => Sys2Proof.Machine.execPfxFs s
  | .pfxGs => Sys2Proof.Machine.execPfxGs s
  | .pfxOpSize => Sys2Proof.Machine.execPfxOpSize s
  | .pfxAdSize => Sys2Proof.Machine.execPfxAdSize s
  | .pfxLock => Sys2Proof.Machine.execPfxLock s
  | .pfxRepne => Sys2Proof.Machine.execPfxRepne s
  | .pfxRep => Sys2Proof.Machine.execPfxRep s
  -- two-operand arithmetic and logic (42_arithmetic_logic R400 to R409)
  | .add f => Sys2Proof.Machine.execAdd f s
  | .or f => Sys2Proof.Machine.execOr f s
  | .adc f => Sys2Proof.Machine.execAdc f s
  | .sbb f => Sys2Proof.Machine.execSbb f s
  | .and f => Sys2Proof.Machine.execAnd f s
  | .sub f => Sys2Proof.Machine.execSub f s
  | .xor f => Sys2Proof.Machine.execXor f s
  | .cmp f => Sys2Proof.Machine.execCmp f s
  | .test f => Sys2Proof.Machine.execTest f s
  -- one-operand arithmetic (R410 to R413)
  | .inc f => Sys2Proof.Machine.execInc f s
  | .dec f => Sys2Proof.Machine.execDec f s
  | .not w rm => Sys2Proof.Machine.execNot w rm s
  | .neg w rm => Sys2Proof.Machine.execNeg w rm s
  -- multiply and divide (R414 to R419)
  | .mul w rm => Sys2Proof.Machine.execMul w rm s
  | .imul w rm => Sys2Proof.Machine.execImul w rm s
  | .imul2 r rm => Sys2Proof.Machine.execImul2 r rm s
  | .imul3 r rm imm => Sys2Proof.Machine.execImul3 r rm imm s
  | .div w rm => Sys2Proof.Machine.execDiv w rm s
  | .idiv w rm => Sys2Proof.Machine.execIdiv w rm s
  -- shifts and rotates (R420 to R429)
  | .rol w rm c => Sys2Proof.Machine.execRol w rm c s
  | .ror w rm c => Sys2Proof.Machine.execRor w rm c s
  | .rcl w rm c => Sys2Proof.Machine.execRcl w rm c s
  | .rcr w rm c => Sys2Proof.Machine.execRcr w rm c s
  | .shl w rm c => Sys2Proof.Machine.execShl w rm c s
  | .shr w rm c => Sys2Proof.Machine.execShr w rm c s
  | .sar w rm c => Sys2Proof.Machine.execSar w rm c s
  | .shld rm r c => Sys2Proof.Machine.execShld rm r c s
  | .shrd rm r c => Sys2Proof.Machine.execShrd rm r c s
  -- bit test and scan (R430 to R435)
  | .bt rm x => Sys2Proof.Machine.execBt rm x s
  | .bts rm x => Sys2Proof.Machine.execBts rm x s
  | .btr rm x => Sys2Proof.Machine.execBtr rm x s
  | .btc rm x => Sys2Proof.Machine.execBtc rm x s
  | .bsf r rm => Sys2Proof.Machine.execBsf r rm s
  | .bsr r rm => Sys2Proof.Machine.execBsr r rm s
  -- decimal and ASCII adjust (R436 to R441)
  | .daa => Sys2Proof.Machine.execDaa s
  | .das => Sys2Proof.Machine.execDas s
  | .aaa => Sys2Proof.Machine.execAaa s
  | .aas => Sys2Proof.Machine.execAas s
  | .aam ib => Sys2Proof.Machine.execAam ib s
  | .aad ib => Sys2Proof.Machine.execAad ib s
  -- single-flag instructions (R442 to R446)
  | .clc => Sys2Proof.Machine.execClc s
  | .stc => Sys2Proof.Machine.execStc s
  | .cmc => Sys2Proof.Machine.execCmc s
  | .cld => Sys2Proof.Machine.execCld s
  | .std => Sys2Proof.Machine.execStd s
  -- moves (41_data_movement R321 to R329)
  | .mov f => Sys2Proof.Machine.execMov f s
  | .movFromSeg g rm => Sys2Proof.Machine.execMovFromSeg g rm s
  | .movToSeg g rm => Sys2Proof.Machine.execMovToSeg g rm s
  | .movFromCr r n => Sys2Proof.Machine.execMovFromCr r n s
  | .movToCr n r => Sys2Proof.Machine.execMovToCr n r s
  | .movFromDr r n => Sys2Proof.Machine.execMovFromDr r n s
  | .movToDr n r => Sys2Proof.Machine.execMovToDr n r s
  | .movzx w r rm => Sys2Proof.Machine.execMovzx w r rm s
  | .movsx w r rm => Sys2Proof.Machine.execMovsx w r rm s
  | .lea r m => Sys2Proof.Machine.execLea r m s
  -- stack (R332 to R340, R353, R354)
  | .push f => Sys2Proof.Machine.execPush f s
  | .pop f => Sys2Proof.Machine.execPop f s
  | .popSeg g => Sys2Proof.Machine.execPopSeg g s
  | .pusha => Sys2Proof.Machine.execPusha s
  | .pushad => Sys2Proof.Machine.execPushad s
  | .popa => Sys2Proof.Machine.execPopa s
  | .popad => Sys2Proof.Machine.execPopad s
  | .enter size level => Sys2Proof.Machine.execEnter size level s
  | .leave => Sys2Proof.Machine.execLeave s
  -- exchange, translate, far-pointer loads (R341 to R344)
  | .xchg f => Sys2Proof.Machine.execXchg f s
  | .nop => Sys2Proof.Machine.execNop s
  | .xlat => Sys2Proof.Machine.execXlat s
  | .lds r m => Sys2Proof.Machine.execLds r m s
  | .les r m => Sys2Proof.Machine.execLes r m s
  | .lfs r m => Sys2Proof.Machine.execLfs r m s
  | .lgs r m => Sys2Proof.Machine.execLgs r m s
  | .lss r m => Sys2Proof.Machine.execLss r m s
  -- width conversions (R345, R346)
  | .cbw => Sys2Proof.Machine.execCbw s
  | .cwde => Sys2Proof.Machine.execCwde s
  | .cwd => Sys2Proof.Machine.execCwd s
  | .cdq => Sys2Proof.Machine.execCdq s
  -- flag transfers (R347 to R350)
  | .lahf => Sys2Proof.Machine.execLahf s
  | .sahf => Sys2Proof.Machine.execSahf s
  | .pushf => Sys2Proof.Machine.execPushf s
  | .pushfd => Sys2Proof.Machine.execPushfd s
  | .popf => Sys2Proof.Machine.execPopf s
  | .popfd => Sys2Proof.Machine.execPopfd s
  -- conditional byte set (R356)
  | .seto rm => Sys2Proof.Machine.execSeto rm s
  | .setno rm => Sys2Proof.Machine.execSetno rm s
  | .setb rm => Sys2Proof.Machine.execSetb rm s
  | .setnb rm => Sys2Proof.Machine.execSetnb rm s
  | .setz rm => Sys2Proof.Machine.execSetz rm s
  | .setnz rm => Sys2Proof.Machine.execSetnz rm s
  | .setbe rm => Sys2Proof.Machine.execSetbe rm s
  | .setnbe rm => Sys2Proof.Machine.execSetnbe rm s
  | .sets rm => Sys2Proof.Machine.execSets rm s
  | .setns rm => Sys2Proof.Machine.execSetns rm s
  | .setp rm => Sys2Proof.Machine.execSetp rm s
  | .setnp rm => Sys2Proof.Machine.execSetnp rm s
  | .setl rm => Sys2Proof.Machine.execSetl rm s
  | .setnl rm => Sys2Proof.Machine.execSetnl rm s
  | .setle rm => Sys2Proof.Machine.execSetle rm s
  | .setnle rm => Sys2Proof.Machine.execSetnle rm s
  -- conditional jumps (43_control_transfer R482, R483)
  | .jo rel => Sys2Proof.Machine.execJo rel s
  | .jno rel => Sys2Proof.Machine.execJno rel s
  | .jb rel => Sys2Proof.Machine.execJb rel s
  | .jnb rel => Sys2Proof.Machine.execJnb rel s
  | .jz rel => Sys2Proof.Machine.execJz rel s
  | .jnz rel => Sys2Proof.Machine.execJnz rel s
  | .jbe rel => Sys2Proof.Machine.execJbe rel s
  | .jnbe rel => Sys2Proof.Machine.execJnbe rel s
  | .js rel => Sys2Proof.Machine.execJs rel s
  | .jns rel => Sys2Proof.Machine.execJns rel s
  | .jp rel => Sys2Proof.Machine.execJp rel s
  | .jnp rel => Sys2Proof.Machine.execJnp rel s
  | .jl rel => Sys2Proof.Machine.execJl rel s
  | .jnl rel => Sys2Proof.Machine.execJnl rel s
  | .jle rel => Sys2Proof.Machine.execJle rel s
  | .jnle rel => Sys2Proof.Machine.execJnle rel s
  -- jumps, calls, returns (R484 to R494)
  | .jmp rel => Sys2Proof.Machine.execJmp rel s
  | .jmpRm rm => Sys2Proof.Machine.execJmpRm rm s
  | .jmpFar p => Sys2Proof.Machine.execJmpFar p s
  | .jmpFarMem m => Sys2Proof.Machine.execJmpFarMem m s
  | .call rel => Sys2Proof.Machine.execCall rel s
  | .callRm rm => Sys2Proof.Machine.execCallRm rm s
  | .callFar p => Sys2Proof.Machine.execCallFar p s
  | .callFarMem m => Sys2Proof.Machine.execCallFarMem m s
  | .ret => Sys2Proof.Machine.execRet s
  | .retImm iw => Sys2Proof.Machine.execRetImm iw s
  | .retf => Sys2Proof.Machine.execRetf s
  | .retfImm iw => Sys2Proof.Machine.execRetfImm iw s
  | .iret => Sys2Proof.Machine.execIret s
  | .iretd => Sys2Proof.Machine.execIretd s
  -- loops (R495 to R498)
  | .loop rel => Sys2Proof.Machine.execLoop rel s
  | .loope rel => Sys2Proof.Machine.execLoope rel s
  | .loopne rel => Sys2Proof.Machine.execLoopne rel s
  | .jcxz rel => Sys2Proof.Machine.execJcxz rel s
  -- software interrupts and checks (R499 to R502)
  | .int v => Sys2Proof.Machine.execInt v s
  | .int3 => Sys2Proof.Machine.execInt3 s
  | .into => Sys2Proof.Machine.execInto s
  | .bound r m => Sys2Proof.Machine.execBound r m s
  -- strings (44_string_io R540 to R548)
  | .movsb => Sys2Proof.Machine.execMovsb s
  | .movsw => Sys2Proof.Machine.execMovsw s
  | .movsd => Sys2Proof.Machine.execMovsd s
  | .cmpsb => Sys2Proof.Machine.execCmpsb s
  | .cmpsw => Sys2Proof.Machine.execCmpsw s
  | .cmpsd => Sys2Proof.Machine.execCmpsd s
  | .scasb => Sys2Proof.Machine.execScasb s
  | .scasw => Sys2Proof.Machine.execScasw s
  | .scasd => Sys2Proof.Machine.execScasd s
  | .lodsb => Sys2Proof.Machine.execLodsb s
  | .lodsw => Sys2Proof.Machine.execLodsw s
  | .lodsd => Sys2Proof.Machine.execLodsd s
  | .stosb => Sys2Proof.Machine.execStosb s
  | .stosw => Sys2Proof.Machine.execStosw s
  | .stosd => Sys2Proof.Machine.execStosd s
  | .insb => Sys2Proof.Machine.execInsb s
  | .insw => Sys2Proof.Machine.execInsw s
  | .insd => Sys2Proof.Machine.execInsd s
  | .outsb => Sys2Proof.Machine.execOutsb s
  | .outsw => Sys2Proof.Machine.execOutsw s
  | .outsd => Sys2Proof.Machine.execOutsd s
  -- ports (R549, R550)
  | .inp w p => Sys2Proof.Machine.execInp w p s
  | .outp w p => Sys2Proof.Machine.execOutp w p s
  -- system (45_system R581 to R608)
  | .hlt => Sys2Proof.Machine.execHlt s
  | .cli => Sys2Proof.Machine.execCli s
  | .sti => Sys2Proof.Machine.execSti s
  | .wait => Sys2Proof.Machine.execWait s
  | .arpl rm r => Sys2Proof.Machine.execArpl rm r s
  | .sldt rm => Sys2Proof.Machine.execSldt rm s
  | .str rm => Sys2Proof.Machine.execStr rm s
  | .lldt rm => Sys2Proof.Machine.execLldt rm s
  | .ltr rm => Sys2Proof.Machine.execLtr rm s
  | .sgdt m => Sys2Proof.Machine.execSgdt m s
  | .sidt m => Sys2Proof.Machine.execSidt m s
  | .lgdt m => Sys2Proof.Machine.execLgdt m s
  | .lidt m => Sys2Proof.Machine.execLidt m s
  | .smsw rm => Sys2Proof.Machine.execSmsw rm s
  | .lmsw rm => Sys2Proof.Machine.execLmsw rm s
  | .clts => Sys2Proof.Machine.execClts s
  | .rdmsr => Sys2Proof.Machine.execRdmsr s
  | .wrmsr => Sys2Proof.Machine.execWrmsr s
  -- the invalid-opcode handler (R618, R619)
  | .ud f => Sys2Proof.Machine.execUd f s

end Sys2Proof.Machine
end

