-- ==== Sys2Proof/WellFormed.lean ====
section
/-! DEFINITION. Which instruction terms are instructions: the checks that an operand's form fits the operand and
address size it is decoded with, and that an operand is one the encoding admits (30_encoding R186 to R206). -/

namespace Sys2Proof

/-- Whether a displacement is present. -/
def Disp16.isSome : Disp16 → Bool
  | .none => false
  | .d8 _ => true
  | .d16 _ => true

/-- Whether a displacement is present. -/
def Disp32.isSome : Disp32 → Bool
  | .none => false
  | .d8 _ => true
  | .d32 _ => true

/-- A memory operand fits the address size; the rows that need a displacement have one (30_encoding R187 to R189). -/
def MemRef.wf (a : Sz) : MemRef → Bool
  | .m16 rm d => a = .s16 && (rm ≠ .n6 || d.isSome)
  | .abs16 _ => a = .s16
  | .m32 b d => a = .s32 && b ≠ .n4 && (b ≠ .n5 || d.isSome)
  | .abs32 _ => a = .s32
  | .sib b _ _ d => a = .s32 && (b ≠ .n5 || d.isSome)
  | .sibAbs _ _ _ => a = .s32

/-- An r/m operand fits the address size. -/
def RM.wf (a : Sz) : RM → Bool
  | .reg _ => true
  | .mem m => m.wf a

/-- Whether an r/m operand is a register (`mod = 3`). -/
def RM.isReg : RM → Bool
  | .reg _ => true
  | .mem _ => false

/-- An `Iz` immediate has OS bits (30_encoding R196). -/
def Iz.wf (o : Sz) : Iz → Bool
  | .w _ => o = .s16
  | .d _ => o = .s32

/-- A moffs offset has AS bits (30_encoding R195). -/
def Moffs.wf (a : Sz) : Moffs → Bool
  | .o16 _ => a = .s16
  | .o32 _ => a = .s32

/-- A relative operand: `Jz` has OS bits. -/
def Rel.wf (o : Sz) : Rel → Bool
  | .short _ => true
  | .near z => z.wf o

/-- The operands of an ALU form fit the sizes. -/
def AluForm.wf (m : DecMode) : AluForm → Bool
  | .rmR _ rm _ => rm.wf m.ads
  | .rRm _ _ rm => rm.wf m.ads
  | .accIb _ => true
  | .accIz z => z.wf m.os
  | .ebIb rm _ => rm.wf m.ads
  | .evIz rm z => rm.wf m.ads && z.wf m.os
  | .evIb rm _ => rm.wf m.ads

/-- The operands of a TEST form fit the sizes. -/
def TestForm.wf (m : DecMode) : TestForm → Bool
  | .rmR _ rm _ => rm.wf m.ads
  | .accIb _ => true
  | .accIz z => z.wf m.os
  | .ebIb rm _ => rm.wf m.ads
  | .evIz rm z => rm.wf m.ads && z.wf m.os

/-- The operand of INC or DEC fits the address size. -/
def IncForm.wf (m : DecMode) : IncForm → Bool
  | .reg _ => true
  | .e _ rm => rm.wf m.ads

/-- The operands of a MOV form fit the sizes. -/
def MovForm.wf (m : DecMode) : MovForm → Bool
  | .rmR _ rm _ => rm.wf m.ads
  | .rRm _ _ rm => rm.wf m.ads
  | .ebIb rm _ => rm.wf m.ads
  | .evIz rm z => rm.wf m.ads && z.wf m.os
  | .rIb _ _ => true
  | .rIz _ z => z.wf m.os
  | .accOff _ o => o.wf m.ads
  | .offAcc _ o => o.wf m.ads

/-- The operand of PUSH fits the sizes. -/
def PushForm.wf (m : DecMode) : PushForm → Bool
  | .seg _ => true
  | .reg _ => true
  | .iz z => z.wf m.os
  | .ib _ => true
  | .ev rm => rm.wf m.ads

/-- The operand of POP fits the address size. -/
def PopForm.wf (m : DecMode) : PopForm → Bool
  | .reg _ => true
  | .ev rm => rm.wf m.ads

/-- The operands of XCHG: `XCHG eAX,eAX` in one byte is NOP (30_encoding R207). -/
def XchgForm.wf (m : DecMode) : XchgForm → Bool
  | .rmR _ rm _ => rm.wf m.ads
  | .acc r => r ≠ .n0

/-- The immediate of the three-operand IMUL fits the operand size. -/
def ImulImm.wf (m : DecMode) : ImulImm → Bool
  | .iz z => z.wf m.os
  | .ib _ => true

/-- The second bytes after 0F that 30_encoding R202 lists. -/
def admittedSecond : List Byte :=
  [0x00, 0x01, 0x02, 0x03, 0x06, 0x20, 0x21, 0x22, 0x23, 0x30, 0x32] ++
  [0x80, 0x81, 0x82, 0x83, 0x84, 0x85, 0x86, 0x87, 0x88, 0x89, 0x8A, 0x8B, 0x8C, 0x8D, 0x8E, 0x8F] ++
  [0x90, 0x91, 0x92, 0x93, 0x94, 0x95, 0x96, 0x97, 0x98, 0x99, 0x9A, 0x9B, 0x9C, 0x9D, 0x9E, 0x9F] ++
  [0xA0, 0xA1, 0xA3, 0xA4, 0xA5, 0xA8, 0xA9, 0xAB, 0xAC, 0xAD, 0xAF] ++
  [0xB2, 0xB3, 0xB4, 0xB5, 0xB6, 0xB7, 0xBA, 0xBB, 0xBC, 0xBD, 0xBE, 0xBF]

/-- The illegal `/n` and register forms of an opcode (30_encoding R203 to R206). -/
def UdOp.illegal (reg : Num8) (rm : RM) : UdOp → Bool
  | .bound => rm.isReg
  | .movFromSeg => reg = .n6 || reg = .n7
  | .lea => rm.isReg
  | .movToSeg => reg = .n1 || reg = .n6 || reg = .n7
  | .popRm => reg ≠ .n0
  | .les => rm.isReg
  | .lds => rm.isReg
  | .movEbIb => reg ≠ .n0
  | .movEvIz => reg ≠ .n0
  | .grp4 => reg ≠ .n0 && reg ≠ .n1
  | .grp5 => reg = .n7 || ((reg = .n3 || reg = .n5) && rm.isReg)
  | .grp6 => reg = .n4 || reg = .n5 || reg = .n6 || reg = .n7
  | .grp7 => reg = .n5 || reg = .n7 ||
      ((reg = .n0 || reg = .n1 || reg = .n2 || reg = .n3) && rm.isReg)
  | .grp8 => reg = .n0 || reg = .n1 || reg = .n2 || reg = .n3
  | .lar => true
  | .lsl => true
  | .lss => rm.isReg
  | .lfs => rm.isReg
  | .lgs => rm.isReg

/-- An encoding that raises #UD is one of those of 30_encoding R203, R205, R206. -/
def UdForm.wf (m : DecMode) : UdForm → Bool
  | .opD6 => true
  | .opF1 => true
  | .esc _ _ rm => rm.wf m.ads
  | .two op => !admittedSecond.contains op
  | .slot op reg rm => rm.wf m.ads && op.illegal reg rm

/-- The instruction is one the encoding admits at the given operand and address size. -/
def Instr.wf (m : DecMode) : Instr → Bool
  | .pfxEs | .pfxCs | .pfxSs | .pfxDs | .pfxFs | .pfxGs => true
  | .pfxOpSize | .pfxAdSize | .pfxLock | .pfxRepne | .pfxRep => true
  | .add f | .or f | .adc f | .sbb f | .and f | .sub f | .xor f | .cmp f => f.wf m
  | .test f => f.wf m
  | .inc f | .dec f => f.wf m
  | .not _ rm | .neg _ rm | .mul _ rm | .imul _ rm | .div _ rm | .idiv _ rm => rm.wf m.ads
  | .imul2 _ rm => rm.wf m.ads
  | .imul3 _ rm i => rm.wf m.ads && i.wf m
  | .rol _ rm _ | .ror _ rm _ | .rcl _ rm _ | .rcr _ rm _ => rm.wf m.ads
  | .shl _ rm _ | .shr _ rm _ | .sar _ rm _ => rm.wf m.ads
  | .shld rm _ _ | .shrd rm _ _ => rm.wf m.ads
  | .bt rm _ | .bts rm _ | .btr rm _ | .btc rm _ => rm.wf m.ads
  | .bsf _ rm | .bsr _ rm => rm.wf m.ads
  | .daa | .das | .aaa | .aas | .aam _ | .aad _ => true
  | .clc | .stc | .cmc | .cld | .std => true
  | .mov f => f.wf m
  | .movFromSeg _ rm => rm.wf m.ads
  | .movToSeg s rm => s ≠ .cs && rm.wf m.ads
  | .movFromCr _ _ | .movToCr _ _ | .movFromDr _ _ | .movToDr _ _ => true
  | .movzx _ _ rm | .movsx _ _ rm => rm.wf m.ads
  | .lea _ r => r.wf m.ads
  | .push f => f.wf m
  | .pop f => f.wf m
  | .popSeg s => s ≠ .cs
  | .pusha | .popa | .cbw | .cwd | .pushf | .popf | .iret => m.os = .s16
  | .pushad | .popad | .cwde | .cdq | .pushfd | .popfd | .iretd => m.os = .s32
  | .enter _ _ | .leave => true
  | .xchg f => f.wf m
  | .nop | .xlat | .lahf | .sahf => true
  | .lds _ r | .les _ r | .lfs _ r | .lgs _ r | .lss _ r => r.wf m.ads
  | .seto rm | .setno rm | .setb rm | .setnb rm | .setz rm | .setnz rm | .setbe rm | .setnbe rm => rm.wf m.ads
  | .sets rm | .setns rm | .setp rm | .setnp rm | .setl rm | .setnl rm | .setle rm | .setnle rm => rm.wf m.ads
  | .jo r | .jno r | .jb r | .jnb r | .jz r | .jnz r | .jbe r | .jnbe r => r.wf m.os
  | .js r | .jns r | .jp r | .jnp r | .jl r | .jnl r | .jle r | .jnle r => r.wf m.os
  | .jmp r => r.wf m.os
  | .call z => z.wf m.os
  | .jmpRm rm | .callRm rm => rm.wf m.ads
  | .jmpFar p | .callFar p => p.off.wf m.os
  | .jmpFarMem r | .callFarMem r => r.wf m.ads
  | .ret | .retImm _ | .retf | .retfImm _ => true
  | .loop _ | .loope _ | .loopne _ | .jcxz _ => true
  | .int _ | .int3 | .into => true
  | .bound _ r => r.wf m.ads
  | .movsb | .cmpsb | .scasb | .lodsb | .stosb | .insb | .outsb => true
  | .movsw | .cmpsw | .scasw | .lodsw | .stosw | .insw | .outsw => m.os = .s16
  | .movsd | .cmpsd | .scasd | .lodsd | .stosd | .insd | .outsd => m.os = .s32
  | .inp _ _ | .outp _ _ => true
  | .hlt | .cli | .sti | .wait => true
  | .arpl rm _ => rm.wf m.ads
  | .sldt rm | .str rm | .lldt rm | .ltr rm => rm.wf m.ads
  | .sgdt r | .sidt r | .lgdt r | .lidt r => r.wf m.ads
  | .smsw rm | .lmsw rm => rm.wf m.ads
  | .clts | .rdmsr | .wrmsr => true
  | .ud f => f.wf m

end Sys2Proof
end

