-- ==== Sys2Proof/Decode.lean ====
section
/-! DEFINITION. The decoder and the encoder. The decoder reads the bytes that follow the prefixes of an
instruction (a prefix byte is an item by itself) and is total: the one thing it refuses, by name, is a list that
ends inside the instruction. The encoder is written from the same tables (30_encoding R183 to R206). -/

namespace Sys2Proof

/-- Why the decoder refuses a list of bytes: it ends before the instruction does. No byte pattern is refused
(30_encoding R171: "Decoding never fails"). -/
inductive DecodeError where
  | truncated
  deriving DecidableEq, Repr

/-- What the decoder answers: the instruction and the bytes after it. -/
abbrev Dec := Except DecodeError (Instr × List Byte)

/-! ## Bit fields -/

/-- The three bits of a field. -/
def Num8.bits : Num8 → BitVec 3
  | .n0 => 0
  | .n1 => 1
  | .n2 => 2
  | .n3 => 3
  | .n4 => 4
  | .n5 => 5
  | .n6 => 6
  | .n7 => 7

/-- The field three bits name. -/
def Num8.ofBits (b : BitVec 3) : Num8 :=
  match b.toNat with
  | 0 => .n0
  | 1 => .n1
  | 2 => .n2
  | 3 => .n3
  | 4 => .n4
  | 5 => .n5
  | 6 => .n6
  | _ => .n7

/-- Bits 2:0 of a byte: `rm` of ModRM, `base` of SIB, a `+r` register (30_encoding R182, R183, R189). -/
def lowField (b : Byte) : Num8 := Num8.ofBits (b.extractLsb' 0 3)

/-- Bits 5:3 of a byte: `reg` of ModRM, `index` of SIB (30_encoding R183, R189). -/
def midField (b : Byte) : Num8 := Num8.ofBits (b.extractLsb' 3 3)

/-- Bits 7:6 of a byte: `mod` of ModRM, `ss` of SIB (30_encoding R183, R189). -/
def topField (b : Byte) : BitVec 2 := b.extractLsb' 6 2

/-- Bits 7:3 of an opcode byte: the row of eight of the opcode map it stands in. -/
def opRow (b : Byte) : Nat := (b.extractLsb' 3 5).toNat

/-- A byte from its three fields. -/
def fieldByte (top : BitVec 2) (mid low : Num8) : Byte := top ++ mid.bits ++ low.bits

/-- An opcode byte `base + r` with a register number in its low three bits (30_encoding R182). -/
def plusReg (base : Byte) (r : Num8) : Byte := base + r.bits.setWidth 8

/-- Segment register numbers (10_state R47). -/
def Seg.num : Seg → Num8
  | .es => .n0
  | .cs => .n1
  | .ss => .n2
  | .ds => .n3
  | .fs => .n4
  | .gs => .n5

/-- The segment register of a number; 6 and 7 name none (10_state R47). -/
def Seg.ofNum? : Num8 → Option Seg
  | .n0 => some .es
  | .n1 => some .cs
  | .n2 => some .ss
  | .n3 => some .ds
  | .n4 => some .fs
  | .n5 => some .gs
  | .n6 => none
  | .n7 => none

/-! ## Fetching operands from the bytes -/

/-- One byte. -/
def withByte (bs : List Byte) (k : Byte → List Byte → Dec) : Dec :=
  match bs with
  | [] => .error .truncated
  | b :: bs => k b bs

/-- Two bytes, little-endian (30_encoding R172). -/
def with16 (bs : List Byte) (k : BitVec 16 → List Byte → Dec) : Dec :=
  withByte bs fun b0 bs => withByte bs fun b1 bs => k (b1 ++ b0) bs

/-- Four bytes, little-endian (30_encoding R172). -/
def with32 (bs : List Byte) (k : BitVec 32 → List Byte → Dec) : Dec :=
  withByte bs fun b0 bs => withByte bs fun b1 bs => withByte bs fun b2 bs => withByte bs fun b3 bs =>
    k (b3 ++ b2 ++ b1 ++ b0) bs

/-- An `Iz`: OS/8 bytes (30_encoding R196). -/
def withIz (o : Sz) (bs : List Byte) (k : Iz → List Byte → Dec) : Dec :=
  match o with
  | .s16 => with16 bs fun v bs => k (.w v) bs
  | .s32 => with32 bs fun v bs => k (.d v) bs

/-- A moffs: AS/8 bytes (30_encoding R195). -/
def withMoffs (a : Sz) (bs : List Byte) (k : Moffs → List Byte → Dec) : Dec :=
  match a with
  | .s16 => with16 bs fun v bs => k (.o16 v) bs
  | .s32 => with32 bs fun v bs => k (.o32 v) bs

/-- A far pointer: offset, then selector (30_encoding R196). -/
def withFar (o : Sz) (bs : List Byte) (k : FarPtr → List Byte → Dec) : Dec :=
  withIz o bs fun z bs => with16 bs fun sel bs => k ⟨z, sel⟩ bs

/-- The displacement of a 16-bit form by `mod` (30_encoding R187). -/
def withDisp16 (md : BitVec 2) (bs : List Byte) (k : Disp16 → List Byte → Dec) : Dec :=
  match md.toNat with
  | 0 => k .none bs
  | 1 => withByte bs fun v bs => k (.d8 v) bs
  | _ => with16 bs fun v bs => k (.d16 v) bs

/-- The displacement of a 32-bit form by `mod` (30_encoding R188, R189). -/
def withDisp32 (md : BitVec 2) (bs : List Byte) (k : Disp32 → List Byte → Dec) : Dec :=
  match md.toNat with
  | 0 => k .none bs
  | 1 => withByte bs fun v bs => k (.d8 v) bs
  | _ => with32 bs fun v bs => k (.d32 v) bs

/-- The memory operand of `mod` in 0, 1, 2 (30_encoding R186 to R189). -/
def withMem (a : Sz) (md : BitVec 2) (rm : Num8) (bs : List Byte) (k : MemRef → List Byte → Dec) : Dec :=
  match a with
  | .s16 =>
    if md = 0 ∧ rm = .n6 then with16 bs fun v bs => k (.abs16 v) bs
    else withDisp16 md bs fun d bs => k (.m16 rm d) bs
  | .s32 =>
    if rm = .n4 then
      withByte bs fun sib bs =>
        if md = 0 ∧ lowField sib = .n5 then
          with32 bs fun v bs => k (.sibAbs (midField sib) (topField sib) v) bs
        else
          withDisp32 md bs fun d bs => k (.sib (lowField sib) (midField sib) (topField sib) d) bs
    else if md = 0 ∧ rm = .n5 then with32 bs fun v bs => k (.abs32 v) bs
    else withDisp32 md bs fun d bs => k (.m32 rm d) bs

/-- ModRM with what follows it: the `reg` field and the r/m operand (30_encoding R183 to R189). -/
def withModRm (a : Sz) (bs : List Byte) (k : Num8 → RM → List Byte → Dec) : Dec :=
  withByte bs fun b bs =>
    if topField b = 3 then k (midField b) (.reg (lowField b)) bs
    else withMem a (topField b) (lowField b) bs fun m bs => k (midField b) (.mem m) bs

/-- A ModRM of which only memory forms are admitted; the register form is the #UD encoding `u` (30_encoding R206). -/
def withModRmMem (a : Sz) (u : UdOp) (bs : List Byte) (k : Num8 → MemRef → List Byte → Dec) : Dec :=
  withModRm a bs fun reg rm bs =>
    match rm with
    | .reg r => .ok (.ud (.slot u reg (.reg r)), bs)
    | .mem m => k reg m bs

/-- The decoder's answer. -/
def got (i : Instr) (bs : List Byte) : Dec := .ok (i, bs)

/-! ## Groups of instructions -/

/-- The eight operations of the ALU block and of group 1, by number (30_encoding R201, R204). -/
def aluInstr : Num8 → AluForm → Instr
  | .n0 => .add
  | .n1 => .or
  | .n2 => .adc
  | .n3 => .sbb
  | .n4 => .and
  | .n5 => .sub
  | .n6 => .xor
  | .n7 => .cmp

/-- Group 2 by `/n`; `/6` is SHL (30_encoding R204). -/
def shiftInstr : Num8 → OpW → RM → ShCount → Instr
  | .n0 => .rol
  | .n1 => .ror
  | .n2 => .rcl
  | .n3 => .rcr
  | .n4 => .shl
  | .n5 => .shr
  | .n6 => .shl
  | .n7 => .sar

/-- A condition code from the low four bits of an opcode: the row's parity and the column (30_encoding R182). -/
def condOf (high : Bool) (n : Num8) : Cond :=
  match high, n with
  | false, .n0 => .o
  | false, .n1 => .no
  | false, .n2 => .b
  | false, .n3 => .nb
  | false, .n4 => .z
  | false, .n5 => .nz
  | false, .n6 => .be
  | false, .n7 => .nbe
  | true, .n0 => .s
  | true, .n1 => .ns
  | true, .n2 => .p
  | true, .n3 => .np
  | true, .n4 => .l
  | true, .n5 => .nl
  | true, .n6 => .le
  | true, .n7 => .nle

/-- Jcc by condition (43_control_transfer R481 to R483). -/
def jccInstr : Cond → Rel → Instr
  | .o => .jo
  | .no => .jno
  | .b => .jb
  | .nb => .jnb
  | .z => .jz
  | .nz => .jnz
  | .be => .jbe
  | .nbe => .jnbe
  | .s => .js
  | .ns => .jns
  | .p => .jp
  | .np => .jnp
  | .l => .jl
  | .nl => .jnl
  | .le => .jle
  | .nle => .jnle

/-- SETcc by condition (41_data_movement R356). -/
def setccInstr : Cond → RM → Instr
  | .o => .seto
  | .no => .setno
  | .b => .setb
  | .nb => .setnb
  | .z => .setz
  | .nz => .setnz
  | .be => .setbe
  | .nbe => .setnbe
  | .s => .sets
  | .ns => .setns
  | .p => .setp
  | .np => .setnp
  | .l => .setl
  | .nl => .setnl
  | .le => .setle
  | .nle => .setnle

/-- Group 3 (F6, F7) by `/n`: `/0` and `/1` are TEST with an immediate (30_encoding R204). -/
def decGroup3 (m : DecMode) (w : OpW) (reg : Num8) (rm : RM) (bs : List Byte) : Dec :=
  match reg with
  | .n0 | .n1 =>
    match w with
    | .b => withByte bs fun v bs => got (.test (.ebIb rm v)) bs
    | .v => withIz m.os bs fun z bs => got (.test (.evIz rm z)) bs
  | .n2 => got (.not w rm) bs
  | .n3 => got (.neg w rm) bs
  | .n4 => got (.mul w rm) bs
  | .n5 => got (.imul w rm) bs
  | .n6 => got (.div w rm) bs
  | .n7 => got (.idiv w rm) bs

/-- Group 4 (FE) by `/n` (30_encoding R204). -/
def decGroup4 (reg : Num8) (rm : RM) (bs : List Byte) : Dec :=
  match reg with
  | .n0 => got (.inc (.e .b rm)) bs
  | .n1 => got (.dec (.e .b rm)) bs
  | .n2 | .n3 | .n4 | .n5 | .n6 | .n7 => got (.ud (.slot .grp4 reg rm)) bs

/-- Group 5 (FF) by `/n`; `/3` and `/5` have no register form (30_encoding R204, R206). -/
def decGroup5 (reg : Num8) (rm : RM) (bs : List Byte) : Dec :=
  match reg, rm with
  | .n0, _ => got (.inc (.e .v rm)) bs
  | .n1, _ => got (.dec (.e .v rm)) bs
  | .n2, _ => got (.callRm rm) bs
  | .n3, .mem r => got (.callFarMem r) bs
  | .n3, .reg _ => got (.ud (.slot .grp5 reg rm)) bs
  | .n4, _ => got (.jmpRm rm) bs
  | .n5, .mem r => got (.jmpFarMem r) bs
  | .n5, .reg _ => got (.ud (.slot .grp5 reg rm)) bs
  | .n6, _ => got (.push (.ev rm)) bs
  | .n7, _ => got (.ud (.slot .grp5 reg rm)) bs

/-- Group 6 (0F 00) by `/n` (30_encoding R204). -/
def decGroup6 (reg : Num8) (rm : RM) (bs : List Byte) : Dec :=
  match reg with
  | .n0 => got (.sldt rm) bs
  | .n1 => got (.str rm) bs
  | .n2 => got (.lldt rm) bs
  | .n3 => got (.ltr rm) bs
  | .n4 | .n5 | .n6 | .n7 => got (.ud (.slot .grp6 reg rm)) bs

/-- Group 7 (0F 01) by `/n`; `/0` to `/3` have no register form (30_encoding R204, R206). -/
def decGroup7 (reg : Num8) (rm : RM) (bs : List Byte) : Dec :=
  match reg, rm with
  | .n0, .mem r => got (.sgdt r) bs
  | .n1, .mem r => got (.sidt r) bs
  | .n2, .mem r => got (.lgdt r) bs
  | .n3, .mem r => got (.lidt r) bs
  | .n0, .reg _ | .n1, .reg _ | .n2, .reg _ | .n3, .reg _ => got (.ud (.slot .grp7 reg rm)) bs
  | .n4, _ => got (.smsw rm) bs
  | .n5, _ => got (.ud (.slot .grp7 reg rm)) bs
  | .n6, _ => got (.lmsw rm) bs
  | .n7, _ => got (.ud (.slot .grp7 reg rm)) bs

/-- Group 8 (0F BA) by `/n`: the assigned slots have an immediate byte, the others end before it (30_encoding R204,
R205). -/
def decGroup8 (reg : Num8) (rm : RM) (bs : List Byte) : Dec :=
  match reg with
  | .n0 | .n1 | .n2 | .n3 => got (.ud (.slot .grp8 reg rm)) bs
  | .n4 => withByte bs fun v bs => got (.bt rm (.imm v)) bs
  | .n5 => withByte bs fun v bs => got (.bts rm (.imm v)) bs
  | .n6 => withByte bs fun v bs => got (.btr rm (.imm v)) bs
  | .n7 => withByte bs fun v bs => got (.btc rm (.imm v)) bs

/-! ## The opcode maps, in rows of eight (30_encoding R201, R202) -/

/-- The six ALU columns of rows 00 to 38; the other two columns are `rest`. -/
def decAluRow (m : DecMode) (op : Num8) (c : Num8) (bs : List Byte) (rest : Num8 → Dec) : Dec :=
  match c with
  | .n0 => withModRm m.ads bs fun r rm bs => got (aluInstr op (.rmR .b rm r)) bs
  | .n1 => withModRm m.ads bs fun r rm bs => got (aluInstr op (.rmR .v rm r)) bs
  | .n2 => withModRm m.ads bs fun r rm bs => got (aluInstr op (.rRm .b r rm)) bs
  | .n3 => withModRm m.ads bs fun r rm bs => got (aluInstr op (.rRm .v r rm)) bs
  | .n4 => withByte bs fun v bs => got (aluInstr op (.accIb v)) bs
  | .n5 => withIz m.os bs fun z bs => got (aluInstr op (.accIz z)) bs
  | .n6 | .n7 => rest c

/-- Of a row's last two columns, the first or the second. -/
def pickCol (a b : Dec) : Num8 → Dec
  | .n6 => a
  | _ => b

/-- Opcodes 60 to 67. -/
def decRow60 (m : DecMode) (c : Num8) (bs : List Byte) : Dec :=
  match c with
  | .n0 => got (match m.os with | .s16 => .pusha | .s32 => .pushad) bs
  | .n1 => got (match m.os with | .s16 => .popa | .s32 => .popad) bs
  | .n2 => withModRmMem m.ads .bound bs fun r mem bs => got (.bound r mem) bs
  | .n3 => withModRm m.ads bs fun r rm bs => got (.arpl rm r) bs
  | .n4 => got .pfxFs bs
  | .n5 => got .pfxGs bs
  | .n6 => got .pfxOpSize bs
  | .n7 => got .pfxAdSize bs

/-- Opcodes 68 to 6F. -/
def decRow68 (m : DecMode) (c : Num8) (bs : List Byte) : Dec :=
  match c with
  | .n0 => withIz m.os bs fun z bs => got (.push (.iz z)) bs
  | .n1 => withModRm m.ads bs fun r rm bs => withIz m.os bs fun z bs => got (.imul3 r rm (.iz z)) bs
  | .n2 => withByte bs fun v bs => got (.push (.ib v)) bs
  | .n3 => withModRm m.ads bs fun r rm bs => withByte bs fun v bs => got (.imul3 r rm (.ib v)) bs
  | .n4 => got .insb bs
  | .n5 => got (match m.os with | .s16 => .insw | .s32 => .insd) bs
  | .n6 => got .outsb bs
  | .n7 => got (match m.os with | .s16 => .outsw | .s32 => .outsd) bs

/-- Opcodes 80 to 87. -/
def decRow80 (m : DecMode) (c : Num8) (bs : List Byte) : Dec :=
  match c with
  | .n0 | .n2 => withModRm m.ads bs fun n rm bs => withByte bs fun v bs => got (aluInstr n (.ebIb rm v)) bs
  | .n1 => withModRm m.ads bs fun n rm bs => withIz m.os bs fun z bs => got (aluInstr n (.evIz rm z)) bs
  | .n3 => withModRm m.ads bs fun n rm bs => withByte bs fun v bs => got (aluInstr n (.evIb rm v)) bs
  | .n4 => withModRm m.ads bs fun r rm bs => got (.test (.rmR .b rm r)) bs
  | .n5 => withModRm m.ads bs fun r rm bs => got (.test (.rmR .v rm r)) bs
  | .n6 => withModRm m.ads bs fun r rm bs => got (.xchg (.rmR .b rm r)) bs
  | .n7 => withModRm m.ads bs fun r rm bs => got (.xchg (.rmR .v rm r)) bs

/-- Opcodes 88 to 8F. -/
def decRow88 (m : DecMode) (c : Num8) (bs : List Byte) : Dec :=
  match c with
  | .n0 => withModRm m.ads bs fun r rm bs => got (.mov (.rmR .b rm r)) bs
  | .n1 => withModRm m.ads bs fun r rm bs => got (.mov (.rmR .v rm r)) bs
  | .n2 => withModRm m.ads bs fun r rm bs => got (.mov (.rRm .b r rm)) bs
  | .n3 => withModRm m.ads bs fun r rm bs => got (.mov (.rRm .v r rm)) bs
  | .n4 => withModRm m.ads bs fun r rm bs =>
      match Seg.ofNum? r with
      | some s => got (.movFromSeg s rm) bs
      | none => got (.ud (.slot .movFromSeg r rm)) bs
  | .n5 => withModRmMem m.ads .lea bs fun r mem bs => got (.lea r mem) bs
  | .n6 => withModRm m.ads bs fun r rm bs =>
      match Seg.ofNum? r with
      | some .cs => got (.ud (.slot .movToSeg r rm)) bs
      | some s => got (.movToSeg s rm) bs
      | none => got (.ud (.slot .movToSeg r rm)) bs
  | .n7 => withModRm m.ads bs fun r rm bs =>
      if r = .n0 then got (.pop (.ev rm)) bs else got (.ud (.slot .popRm r rm)) bs

/-- Opcodes 98 to 9F. -/
def decRow98 (m : DecMode) (c : Num8) (bs : List Byte) : Dec :=
  match c with
  | .n0 => got (match m.os with | .s16 => .cbw | .s32 => .cwde) bs
  | .n1 => got (match m.os with | .s16 => .cwd | .s32 => .cdq) bs
  | .n2 => withFar m.os bs fun p bs => got (.callFar p) bs
  | .n3 => got .wait bs
  | .n4 => got (match m.os with | .s16 => .pushf | .s32 => .pushfd) bs
  | .n5 => got (match m.os with | .s16 => .popf | .s32 => .popfd) bs
  | .n6 => got .sahf bs
  | .n7 => got .lahf bs

/-- Opcodes A0 to A7. -/
def decRowA0 (m : DecMode) (c : Num8) (bs : List Byte) : Dec :=
  match c with
  | .n0 => withMoffs m.ads bs fun o bs => got (.mov (.accOff .b o)) bs
  | .n1 => withMoffs m.ads bs fun o bs => got (.mov (.accOff .v o)) bs
  | .n2 => withMoffs m.ads bs fun o bs => got (.mov (.offAcc .b o)) bs
  | .n3 => withMoffs m.ads bs fun o bs => got (.mov (.offAcc .v o)) bs
  | .n4 => got .movsb bs
  | .n5 => got (match m.os with | .s16 => .movsw | .s32 => .movsd) bs
  | .n6 => got .cmpsb bs
  | .n7 => got (match m.os with | .s16 => .cmpsw | .s32 => .cmpsd) bs

/-- Opcodes A8 to AF. -/
def decRowA8 (m : DecMode) (c : Num8) (bs : List Byte) : Dec :=
  match c with
  | .n0 => withByte bs fun v bs => got (.test (.accIb v)) bs
  | .n1 => withIz m.os bs fun z bs => got (.test (.accIz z)) bs
  | .n2 => got .stosb bs
  | .n3 => got (match m.os with | .s16 => .stosw | .s32 => .stosd) bs
  | .n4 => got .lodsb bs
  | .n5 => got (match m.os with | .s16 => .lodsw | .s32 => .lodsd) bs
  | .n6 => got .scasb bs
  | .n7 => got (match m.os with | .s16 => .scasw | .s32 => .scasd) bs

/-- Opcodes C0 to C7. -/
def decRowC0 (m : DecMode) (c : Num8) (bs : List Byte) : Dec :=
  match c with
  | .n0 => withModRm m.ads bs fun n rm bs => withByte bs fun v bs => got (shiftInstr n .b rm (.imm v)) bs
  | .n1 => withModRm m.ads bs fun n rm bs => withByte bs fun v bs => got (shiftInstr n .v rm (.imm v)) bs
  | .n2 => with16 bs fun v bs => got (.retImm v) bs
  | .n3 => got .ret bs
  | .n4 => withModRmMem m.ads .les bs fun r mem bs => got (.les r mem) bs
  | .n5 => withModRmMem m.ads .lds bs fun r mem bs => got (.lds r mem) bs
  | .n6 => withModRm m.ads bs fun n rm bs =>
      if n = .n0 then withByte bs fun v bs => got (.mov (.ebIb rm v)) bs
      else got (.ud (.slot .movEbIb n rm)) bs
  | .n7 => withModRm m.ads bs fun n rm bs =>
      if n = .n0 then withIz m.os bs fun z bs => got (.mov (.evIz rm z)) bs
      else got (.ud (.slot .movEvIz n rm)) bs

/-- Opcodes C8 to CF. -/
def decRowC8 (m : DecMode) (c : Num8) (bs : List Byte) : Dec :=
  match c with
  | .n0 => with16 bs fun size bs => withByte bs fun level bs => got (.enter size level) bs
  | .n1 => got .leave bs
  | .n2 => with16 bs fun v bs => got (.retfImm v) bs
  | .n3 => got .retf bs
  | .n4 => got .int3 bs
  | .n5 => withByte bs fun v bs => got (.int v) bs
  | .n6 => got .into bs
  | .n7 => got (match m.os with | .s16 => .iret | .s32 => .iretd) bs

/-- Opcodes D0 to D7. -/
def decRowD0 (m : DecMode) (c : Num8) (bs : List Byte) : Dec :=
  match c with
  | .n0 => withModRm m.ads bs fun n rm bs => got (shiftInstr n .b rm .one) bs
  | .n1 => withModRm m.ads bs fun n rm bs => got (shiftInstr n .v rm .one) bs
  | .n2 => withModRm m.ads bs fun n rm bs => got (shiftInstr n .b rm .cl) bs
  | .n3 => withModRm m.ads bs fun n rm bs => got (shiftInstr n .v rm .cl) bs
  | .n4 => withByte bs fun v bs => got (.aam v) bs
  | .n5 => withByte bs fun v bs => got (.aad v) bs
  | .n6 => got (.ud .opD6) bs
  | .n7 => got .xlat bs

/-- Opcodes E0 to E7. -/
def decRowE0 (c : Num8) (bs : List Byte) : Dec :=
  match c with
  | .n0 => withByte bs fun v bs => got (.loopne v) bs
  | .n1 => withByte bs fun v bs => got (.loope v) bs
  | .n2 => withByte bs fun v bs => got (.loop v) bs
  | .n3 => withByte bs fun v bs => got (.jcxz v) bs
  | .n4 => withByte bs fun v bs => got (.inp .b (.imm v)) bs
  | .n5 => withByte bs fun v bs => got (.inp .v (.imm v)) bs
  | .n6 => withByte bs fun v bs => got (.outp .b (.imm v)) bs
  | .n7 => withByte bs fun v bs => got (.outp .v (.imm v)) bs

/-- Opcodes E8 to EF. -/
def decRowE8 (m : DecMode) (c : Num8) (bs : List Byte) : Dec :=
  match c with
  | .n0 => withIz m.os bs fun z bs => got (.call z) bs
  | .n1 => withIz m.os bs fun z bs => got (.jmp (.near z)) bs
  | .n2 => withFar m.os bs fun p bs => got (.jmpFar p) bs
  | .n3 => withByte bs fun v bs => got (.jmp (.short v)) bs
  | .n4 => got (.inp .b .dx) bs
  | .n5 => got (.inp .v .dx) bs
  | .n6 => got (.outp .b .dx) bs
  | .n7 => got (.outp .v .dx) bs

/-- Opcodes F0 to F7. -/
def decRowF0 (m : DecMode) (c : Num8) (bs : List Byte) : Dec :=
  match c with
  | .n0 => got .pfxLock bs
  | .n1 => got (.ud .opF1) bs
  | .n2 => got .pfxRepne bs
  | .n3 => got .pfxRep bs
  | .n4 => got .hlt bs
  | .n5 => got .cmc bs
  | .n6 => withModRm m.ads bs fun n rm bs => decGroup3 m .b n rm bs
  | .n7 => withModRm m.ads bs fun n rm bs => decGroup3 m .v n rm bs

/-- Opcodes F8 to FF. -/
def decRowF8 (m : DecMode) (c : Num8) (bs : List Byte) : Dec :=
  match c with
  | .n0 => got .clc bs
  | .n1 => got .stc bs
  | .n2 => got .cli bs
  | .n3 => got .sti bs
  | .n4 => got .cld bs
  | .n5 => got .std bs
  | .n6 => withModRm m.ads bs fun n rm bs => decGroup4 n rm bs
  | .n7 => withModRm m.ads bs fun n rm bs => decGroup5 n rm bs

/-- Second bytes 00 to 07. -/
def decTwo00 (m : DecMode) (op : Byte) (c : Num8) (bs : List Byte) : Dec :=
  match c with
  | .n0 => withModRm m.ads bs fun n rm bs => decGroup6 n rm bs
  | .n1 => withModRm m.ads bs fun n rm bs => decGroup7 n rm bs
  | .n2 => withModRm m.ads bs fun r rm bs => got (.ud (.slot .lar r rm)) bs
  | .n3 => withModRm m.ads bs fun r rm bs => got (.ud (.slot .lsl r rm)) bs
  | .n6 => got .clts bs
  | .n4 | .n5 | .n7 => got (.ud (.two op)) bs

/-- The register number and the r/m register of `0F 20` to `0F 23`, whose `mod` field is ignored
(30_encoding R206, 45_system R600). -/
def withCrDr (bs : List Byte) (k : Num8 → Num8 → List Byte → Dec) : Dec :=
  withByte bs fun b bs => k (midField b) (lowField b) bs

/-- Second bytes 20 to 27. -/
def decTwo20 (op : Byte) (c : Num8) (bs : List Byte) : Dec :=
  match c with
  | .n0 => withCrDr bs fun n r bs => got (.movFromCr r n) bs
  | .n1 => withCrDr bs fun n r bs => got (.movFromDr r n) bs
  | .n2 => withCrDr bs fun n r bs => got (.movToCr n r) bs
  | .n3 => withCrDr bs fun n r bs => got (.movToDr n r) bs
  | .n4 | .n5 | .n6 | .n7 => got (.ud (.two op)) bs

/-- Second bytes 30 to 37. -/
def decTwo30 (op : Byte) (c : Num8) (bs : List Byte) : Dec :=
  match c with
  | .n0 => got .wrmsr bs
  | .n2 => got .rdmsr bs
  | .n1 | .n3 | .n4 | .n5 | .n6 | .n7 => got (.ud (.two op)) bs

/-- Second bytes A0 to A7. -/
def decTwoA0 (m : DecMode) (op : Byte) (c : Num8) (bs : List Byte) : Dec :=
  match c with
  | .n0 => got (.push (.seg .fs)) bs
  | .n1 => got (.popSeg .fs) bs
  | .n3 => withModRm m.ads bs fun r rm bs => got (.bt rm (.reg r)) bs
  | .n4 => withModRm m.ads bs fun r rm bs => withByte bs fun v bs => got (.shld rm r (.imm v)) bs
  | .n5 => withModRm m.ads bs fun r rm bs => got (.shld rm r .cl) bs
  | .n2 | .n6 | .n7 => got (.ud (.two op)) bs

/-- Second bytes A8 to AF. -/
def decTwoA8 (m : DecMode) (op : Byte) (c : Num8) (bs : List Byte) : Dec :=
  match c with
  | .n0 => got (.push (.seg .gs)) bs
  | .n1 => got (.popSeg .gs) bs
  | .n3 => withModRm m.ads bs fun r rm bs => got (.bts rm (.reg r)) bs
  | .n4 => withModRm m.ads bs fun r rm bs => withByte bs fun v bs => got (.shrd rm r (.imm v)) bs
  | .n5 => withModRm m.ads bs fun r rm bs => got (.shrd rm r .cl) bs
  | .n7 => withModRm m.ads bs fun r rm bs => got (.imul2 r rm) bs
  | .n2 | .n6 => got (.ud (.two op)) bs

/-- Second bytes B0 to B7. -/
def decTwoB0 (m : DecMode) (op : Byte) (c : Num8) (bs : List Byte) : Dec :=
  match c with
  | .n2 => withModRmMem m.ads .lss bs fun r mem bs => got (.lss r mem) bs
  | .n3 => withModRm m.ads bs fun r rm bs => got (.btr rm (.reg r)) bs
  | .n4 => withModRmMem m.ads .lfs bs fun r mem bs => got (.lfs r mem) bs
  | .n5 => withModRmMem m.ads .lgs bs fun r mem bs => got (.lgs r mem) bs
  | .n6 => withModRm m.ads bs fun r rm bs => got (.movzx .b r rm) bs
  | .n7 => withModRm m.ads bs fun r rm bs => got (.movzx .v r rm) bs
  | .n0 | .n1 => got (.ud (.two op)) bs

/-- Second bytes B8 to BF. -/
def decTwoB8 (m : DecMode) (op : Byte) (c : Num8) (bs : List Byte) : Dec :=
  match c with
  | .n2 => withModRm m.ads bs fun n rm bs => decGroup8 n rm bs
  | .n3 => withModRm m.ads bs fun r rm bs => got (.btc rm (.reg r)) bs
  | .n4 => withModRm m.ads bs fun r rm bs => got (.bsf r rm) bs
  | .n5 => withModRm m.ads bs fun r rm bs => got (.bsr r rm) bs
  | .n6 => withModRm m.ads bs fun r rm bs => got (.movsx .b r rm) bs
  | .n7 => withModRm m.ads bs fun r rm bs => got (.movsx .v r rm) bs
  | .n0 | .n1 => got (.ud (.two op)) bs

/-- The two-byte map, after 0F (30_encoding R202): the row of eight by bits 7:3 of the second byte. -/
def decodeTwo (m : DecMode) (bs : List Byte) : Dec :=
  withByte bs fun op bs =>
    let c := lowField op
    match opRow op with
    | 0x00 => decTwo00 m op c bs
    | 0x04 => decTwo20 op c bs
    | 0x06 => decTwo30 op c bs
    | 0x10 => withIz m.os bs fun z bs => got (jccInstr (condOf false c) (.near z)) bs
    | 0x11 => withIz m.os bs fun z bs => got (jccInstr (condOf true c) (.near z)) bs
    | 0x12 => withModRm m.ads bs fun _ rm bs => got (setccInstr (condOf false c) rm) bs
    | 0x13 => withModRm m.ads bs fun _ rm bs => got (setccInstr (condOf true c) rm) bs
    | 0x14 => decTwoA0 m op c bs
    | 0x15 => decTwoA8 m op c bs
    | 0x16 => decTwoB0 m op c bs
    | 0x17 => decTwoB8 m op c bs
    | _ => got (.ud (.two op)) bs

/-- The one-byte map (30_encoding R201): the row of eight by bits 7:3 of the opcode. -/
def decodeOne (m : DecMode) (op : Byte) (bs : List Byte) : Dec :=
  let c := lowField op
  match opRow op with
  | 0x00 => decAluRow m .n0 c bs (pickCol (got (.push (.seg .es)) bs) (got (.popSeg .es) bs))
  | 0x01 => decAluRow m .n1 c bs (pickCol (got (.push (.seg .cs)) bs) (decodeTwo m bs))
  | 0x02 => decAluRow m .n2 c bs (pickCol (got (.push (.seg .ss)) bs) (got (.popSeg .ss) bs))
  | 0x03 => decAluRow m .n3 c bs (pickCol (got (.push (.seg .ds)) bs) (got (.popSeg .ds) bs))
  | 0x04 => decAluRow m .n4 c bs (pickCol (got .pfxEs bs) (got .daa bs))
  | 0x05 => decAluRow m .n5 c bs (pickCol (got .pfxCs bs) (got .das bs))
  | 0x06 => decAluRow m .n6 c bs (pickCol (got .pfxSs bs) (got .aaa bs))
  | 0x07 => decAluRow m .n7 c bs (pickCol (got .pfxDs bs) (got .aas bs))
  | 0x08 => got (.inc (.reg c)) bs
  | 0x09 => got (.dec (.reg c)) bs
  | 0x0A => got (.push (.reg c)) bs
  | 0x0B => got (.pop (.reg c)) bs
  | 0x0C => decRow60 m c bs
  | 0x0D => decRow68 m c bs
  | 0x0E => withByte bs fun v bs => got (jccInstr (condOf false c) (.short v)) bs
  | 0x0F => withByte bs fun v bs => got (jccInstr (condOf true c) (.short v)) bs
  | 0x10 => decRow80 m c bs
  | 0x11 => decRow88 m c bs
  | 0x12 => if c = .n0 then got .nop bs else got (.xchg (.acc c)) bs
  | 0x13 => decRow98 m c bs
  | 0x14 => decRowA0 m c bs
  | 0x15 => decRowA8 m c bs
  | 0x16 => withByte bs fun v bs => got (.mov (.rIb c v)) bs
  | 0x17 => withIz m.os bs fun z bs => got (.mov (.rIz c z)) bs
  | 0x18 => decRowC0 m c bs
  | 0x19 => decRowC8 m c bs
  | 0x1A => decRowD0 m c bs
  | 0x1B => withModRm m.ads bs fun r rm bs => got (.ud (.esc c r rm)) bs
  | 0x1C => decRowE0 c bs
  | 0x1D => decRowE8 m c bs
  | 0x1E => decRowF0 m c bs
  | _ => decRowF8 m c bs

/-- The instruction that a list of bytes begins with, and the bytes after it, at the given operand and address
size. A prefix byte is an item of its own: the step applies it to PFX and decodes on (30_encoding R175). -/
def decode (m : DecMode) (bs : List Byte) : Dec :=
  withByte bs fun op bs => decodeOne m op bs

/-! ## The encoder -/

/-- Two bytes, little-endian. -/
def enc16 (v : BitVec 16) : List Byte := [v.extractLsb' 0 8, v.extractLsb' 8 8]

/-- Four bytes, little-endian. -/
def enc32 (v : BitVec 32) : List Byte :=
  [v.extractLsb' 0 8, v.extractLsb' 8 8, v.extractLsb' 16 8, v.extractLsb' 24 8]

/-- An `Iz`. -/
def encIz : Iz → List Byte
  | .w v => enc16 v
  | .d v => enc32 v

/-- A moffs. -/
def encMoffs : Moffs → List Byte
  | .o16 v => enc16 v
  | .o32 v => enc32 v

/-- A far pointer. -/
def encFar (p : FarPtr) : List Byte := encIz p.off ++ enc16 p.sel

/-- The `mod` field of a 16-bit displacement. -/
def Disp16.md : Disp16 → BitVec 2
  | .none => 0
  | .d8 _ => 1
  | .d16 _ => 2

/-- The bytes of a 16-bit displacement. -/
def Disp16.bytes : Disp16 → List Byte
  | .none => []
  | .d8 v => [v]
  | .d16 v => enc16 v

/-- The `mod` field of a 32-bit displacement. -/
def Disp32.md : Disp32 → BitVec 2
  | .none => 0
  | .d8 _ => 1
  | .d32 _ => 2

/-- The bytes of a 32-bit displacement. -/
def Disp32.bytes : Disp32 → List Byte
  | .none => []
  | .d8 v => [v]
  | .d32 v => enc32 v

/-- ModRM, SIB and displacement of a `reg` field and an r/m operand (30_encoding R183 to R189). -/
def encModRm (reg : Num8) : RM → List Byte
  | .reg r => [fieldByte 3 reg r]
  | .mem (.m16 rm d) => fieldByte d.md reg rm :: d.bytes
  | .mem (.abs16 v) => fieldByte 0 reg .n6 :: enc16 v
  | .mem (.m32 b d) => fieldByte d.md reg b :: d.bytes
  | .mem (.abs32 v) => fieldByte 0 reg .n5 :: enc32 v
  | .mem (.sib b i ss d) => fieldByte d.md reg .n4 :: fieldByte ss i b :: d.bytes
  | .mem (.sibAbs i ss v) => fieldByte 0 reg .n4 :: fieldByte ss i .n5 :: enc32 v

/-- An ALU instruction of block number `n` (30_encoding R201, R204; 42_arithmetic_logic R400). -/
def encAlu (n : Num8) : AluForm → List Byte
  | .rmR .b rm r => fieldByte 0 n .n0 :: encModRm r rm
  | .rmR .v rm r => fieldByte 0 n .n1 :: encModRm r rm
  | .rRm .b r rm => fieldByte 0 n .n2 :: encModRm r rm
  | .rRm .v r rm => fieldByte 0 n .n3 :: encModRm r rm
  | .accIb v => [fieldByte 0 n .n4, v]
  | .accIz z => fieldByte 0 n .n5 :: encIz z
  | .ebIb rm v => 0x80 :: encModRm n rm ++ [v]
  | .evIz rm z => 0x81 :: encModRm n rm ++ encIz z
  | .evIb rm v => 0x83 :: encModRm n rm ++ [v]

/-- TEST (42_arithmetic_logic R409). -/
def encTest : TestForm → List Byte
  | .rmR .b rm r => 0x84 :: encModRm r rm
  | .rmR .v rm r => 0x85 :: encModRm r rm
  | .accIb v => [0xA8, v]
  | .accIz z => 0xA9 :: encIz z
  | .ebIb rm v => 0xF6 :: encModRm .n0 rm ++ [v]
  | .evIz rm z => 0xF7 :: encModRm .n0 rm ++ encIz z

/-- The one-operand opcodes F6 and F7, by `/n`. -/
def encF6 (n : Num8) : OpW → RM → List Byte
  | .b, rm => 0xF6 :: encModRm n rm
  | .v, rm => 0xF7 :: encModRm n rm

/-- Group 2, by `/n` (42_arithmetic_logic R420). -/
def encShift (n : Num8) : OpW → RM → ShCount → List Byte
  | .b, rm, .imm v => 0xC0 :: encModRm n rm ++ [v]
  | .v, rm, .imm v => 0xC1 :: encModRm n rm ++ [v]
  | .b, rm, .one => 0xD0 :: encModRm n rm
  | .v, rm, .one => 0xD1 :: encModRm n rm
  | .b, rm, .cl => 0xD2 :: encModRm n rm
  | .v, rm, .cl => 0xD3 :: encModRm n rm

/-- SHLD and SHRD: the immediate form's second byte, the CL form's (42_arithmetic_logic R428, R429). -/
def encDShift (opImm opCl : Byte) (rm : RM) (r : Num8) : DShCount → List Byte
  | .imm v => 0x0F :: opImm :: encModRm r rm ++ [v]
  | .cl => 0x0F :: opCl :: encModRm r rm

/-- BT, BTS, BTR, BTC: the register form's second byte, group 8's `/n` (42_arithmetic_logic R430 to R433). -/
def encBit (opReg : Byte) (n : Num8) (rm : RM) : BitIdx → List Byte
  | .reg r => 0x0F :: opReg :: encModRm r rm
  | .imm v => 0x0F :: 0xBA :: encModRm n rm ++ [v]

/-- MOV, general forms (41_data_movement R321 to R324). -/
def encMov : MovForm → List Byte
  | .rmR .b rm r => 0x88 :: encModRm r rm
  | .rmR .v rm r => 0x89 :: encModRm r rm
  | .rRm .b r rm => 0x8A :: encModRm r rm
  | .rRm .v r rm => 0x8B :: encModRm r rm
  | .ebIb rm v => 0xC6 :: encModRm .n0 rm ++ [v]
  | .evIz rm z => 0xC7 :: encModRm .n0 rm ++ encIz z
  | .rIb r v => [plusReg 0xB0 r, v]
  | .rIz r z => plusReg 0xB8 r :: encIz z
  | .accOff .b o => 0xA0 :: encMoffs o
  | .accOff .v o => 0xA1 :: encMoffs o
  | .offAcc .b o => 0xA2 :: encMoffs o
  | .offAcc .v o => 0xA3 :: encMoffs o

/-- PUSH (41_data_movement R332 to R335). -/
def encPush : PushForm → List Byte
  | .seg .es => [0x06]
  | .seg .cs => [0x0E]
  | .seg .ss => [0x16]
  | .seg .ds => [0x1E]
  | .seg .fs => [0x0F, 0xA0]
  | .seg .gs => [0x0F, 0xA8]
  | .reg r => [plusReg 0x50 r]
  | .iz z => 0x68 :: encIz z
  | .ib v => [0x6A, v]
  | .ev rm => 0xFF :: encModRm .n6 rm

/-- POP of a segment register (41_data_movement R338); `POP CS` does not exist and is given no bytes. -/
def encPopSeg : Seg → List Byte
  | .es => [0x07]
  | .cs => []
  | .ss => [0x17]
  | .ds => [0x1F]
  | .fs => [0x0F, 0xA1]
  | .gs => [0x0F, 0xA9]

/-- The number of a condition code (43_control_transfer R481). -/
def Cond.num : Cond → Byte
  | .o => 0x0
  | .no => 0x1
  | .b => 0x2
  | .nb => 0x3
  | .z => 0x4
  | .nz => 0x5
  | .be => 0x6
  | .nbe => 0x7
  | .s => 0x8
  | .ns => 0x9
  | .p => 0xA
  | .np => 0xB
  | .l => 0xC
  | .nl => 0xD
  | .le => 0xE
  | .nle => 0xF

/-- Jcc (43_control_transfer R482, R483). -/
def encJcc (c : Cond) : Rel → List Byte
  | .short v => [0x70 + c.num, v]
  | .near z => 0x0F :: (0x80 + c.num) :: encIz z

/-- SETcc; the ignored `reg` field is written 0 (41_data_movement R356). -/
def encSetcc (c : Cond) (rm : RM) : List Byte := 0x0F :: (0x90 + c.num) :: encModRm .n0 rm

/-- MOV to or from a control or debug register, `mod` written 3 (45_system R600 to R603). -/
def encCrDr (op : Byte) (n r : Num8) : List Byte := [0x0F, op, fieldByte 3 n r]

/-- The opcode bytes of an opcode with illegal ModRM encodings. -/
def UdOp.bytes : UdOp → List Byte
  | .bound => [0x62]
  | .movFromSeg => [0x8C]
  | .lea => [0x8D]
  | .movToSeg => [0x8E]
  | .popRm => [0x8F]
  | .les => [0xC4]
  | .lds => [0xC5]
  | .movEbIb => [0xC6]
  | .movEvIz => [0xC7]
  | .grp4 => [0xFE]
  | .grp5 => [0xFF]
  | .grp6 => [0x0F, 0x00]
  | .grp7 => [0x0F, 0x01]
  | .grp8 => [0x0F, 0xBA]
  | .lar => [0x0F, 0x02]
  | .lsl => [0x0F, 0x03]
  | .lss => [0x0F, 0xB2]
  | .lfs => [0x0F, 0xB4]
  | .lgs => [0x0F, 0xB5]

/-- An illegal encoding (30_encoding R203, R205, R206). -/
def encUd : UdForm → List Byte
  | .opD6 => [0xD6]
  | .opF1 => [0xF1]
  | .esc k reg rm => plusReg 0xD8 k :: encModRm reg rm
  | .two op => [0x0F, op]
  | .slot op reg rm => op.bytes ++ encModRm reg rm

/-- The bytes of an instruction, from the tables of 30_encoding R174, R201, R202 and R204. Where two encodings mean
the same instruction (82 and 80, F6 /1 and /0, group 2 /6 and /4, ignored fields) it writes the first. -/
def encode : Instr → List Byte
  | .pfxEs => [0x26]
  | .pfxCs => [0x2E]
  | .pfxSs => [0x36]
  | .pfxDs => [0x3E]
  | .pfxFs => [0x64]
  | .pfxGs => [0x65]
  | .pfxOpSize => [0x66]
  | .pfxAdSize => [0x67]
  | .pfxLock => [0xF0]
  | .pfxRepne => [0xF2]
  | .pfxRep => [0xF3]
  | .add f => encAlu .n0 f
  | .or f => encAlu .n1 f
  | .adc f => encAlu .n2 f
  | .sbb f => encAlu .n3 f
  | .and f => encAlu .n4 f
  | .sub f => encAlu .n5 f
  | .xor f => encAlu .n6 f
  | .cmp f => encAlu .n7 f
  | .test f => encTest f
  | .inc (.reg r) => [plusReg 0x40 r]
  | .inc (.e .b rm) => 0xFE :: encModRm .n0 rm
  | .inc (.e .v rm) => 0xFF :: encModRm .n0 rm
  | .dec (.reg r) => [plusReg 0x48 r]
  | .dec (.e .b rm) => 0xFE :: encModRm .n1 rm
  | .dec (.e .v rm) => 0xFF :: encModRm .n1 rm
  | .not w rm => encF6 .n2 w rm
  | .neg w rm => encF6 .n3 w rm
  | .mul w rm => encF6 .n4 w rm
  | .imul w rm => encF6 .n5 w rm
  | .imul2 r rm => 0x0F :: 0xAF :: encModRm r rm
  | .imul3 r rm (.iz z) => 0x69 :: encModRm r rm ++ encIz z
  | .imul3 r rm (.ib v) => 0x6B :: encModRm r rm ++ [v]
  | .div w rm => encF6 .n6 w rm
  | .idiv w rm => encF6 .n7 w rm
  | .rol w rm c => encShift .n0 w rm c
  | .ror w rm c => encShift .n1 w rm c
  | .rcl w rm c => encShift .n2 w rm c
  | .rcr w rm c => encShift .n3 w rm c
  | .shl w rm c => encShift .n4 w rm c
  | .shr w rm c => encShift .n5 w rm c
  | .sar w rm c => encShift .n7 w rm c
  | .shld rm r c => encDShift 0xA4 0xA5 rm r c
  | .shrd rm r c => encDShift 0xAC 0xAD rm r c
  | .bt rm i => encBit 0xA3 .n4 rm i
  | .bts rm i => encBit 0xAB .n5 rm i
  | .btr rm i => encBit 0xB3 .n6 rm i
  | .btc rm i => encBit 0xBB .n7 rm i
  | .bsf r rm => 0x0F :: 0xBC :: encModRm r rm
  | .bsr r rm => 0x0F :: 0xBD :: encModRm r rm
  | .daa => [0x27]
  | .das => [0x2F]
  | .aaa => [0x37]
  | .aas => [0x3F]
  | .aam v => [0xD4, v]
  | .aad v => [0xD5, v]
  | .clc => [0xF8]
  | .stc => [0xF9]
  | .cmc => [0xF5]
  | .cld => [0xFC]
  | .std => [0xFD]
  | .mov f => encMov f
  | .movFromSeg s rm => 0x8C :: encModRm s.num rm
  | .movToSeg s rm => 0x8E :: encModRm s.num rm
  | .movFromCr r n => encCrDr 0x20 n r
  | .movToCr n r => encCrDr 0x22 n r
  | .movFromDr r n => encCrDr 0x21 n r
  | .movToDr n r => encCrDr 0x23 n r
  | .movzx .b r rm => 0x0F :: 0xB6 :: encModRm r rm
  | .movzx .v r rm => 0x0F :: 0xB7 :: encModRm r rm
  | .movsx .b r rm => 0x0F :: 0xBE :: encModRm r rm
  | .movsx .v r rm => 0x0F :: 0xBF :: encModRm r rm
  | .lea r m => 0x8D :: encModRm r (.mem m)
  | .push f => encPush f
  | .pop (.reg r) => [plusReg 0x58 r]
  | .pop (.ev rm) => 0x8F :: encModRm .n0 rm
  | .popSeg s => encPopSeg s
  | .pusha | .pushad => [0x60]
  | .popa | .popad => [0x61]
  | .enter size level => 0xC8 :: enc16 size ++ [level]
  | .leave => [0xC9]
  | .xchg (.rmR .b rm r) => 0x86 :: encModRm r rm
  | .xchg (.rmR .v rm r) => 0x87 :: encModRm r rm
  | .xchg (.acc r) => [plusReg 0x90 r]
  | .nop => [0x90]
  | .xlat => [0xD7]
  | .lds r m => 0xC5 :: encModRm r (.mem m)
  | .les r m => 0xC4 :: encModRm r (.mem m)
  | .lfs r m => 0x0F :: 0xB4 :: encModRm r (.mem m)
  | .lgs r m => 0x0F :: 0xB5 :: encModRm r (.mem m)
  | .lss r m => 0x0F :: 0xB2 :: encModRm r (.mem m)
  | .cbw | .cwde => [0x98]
  | .cwd | .cdq => [0x99]
  | .lahf => [0x9F]
  | .sahf => [0x9E]
  | .pushf | .pushfd => [0x9C]
  | .popf | .popfd => [0x9D]
  | .seto rm => encSetcc .o rm
  | .setno rm => encSetcc .no rm
  | .setb rm => encSetcc .b rm
  | .setnb rm => encSetcc .nb rm
  | .setz rm => encSetcc .z rm
  | .setnz rm => encSetcc .nz rm
  | .setbe rm => encSetcc .be rm
  | .setnbe rm => encSetcc .nbe rm
  | .sets rm => encSetcc .s rm
  | .setns rm => encSetcc .ns rm
  | .setp rm => encSetcc .p rm
  | .setnp rm => encSetcc .np rm
  | .setl rm => encSetcc .l rm
  | .setnl rm => encSetcc .nl rm
  | .setle rm => encSetcc .le rm
  | .setnle rm => encSetcc .nle rm
  | .jo r => encJcc .o r
  | .jno r => encJcc .no r
  | .jb r => encJcc .b r
  | .jnb r => encJcc .nb r
  | .jz r => encJcc .z r
  | .jnz r => encJcc .nz r
  | .jbe r => encJcc .be r
  | .jnbe r => encJcc .nbe r
  | .js r => encJcc .s r
  | .jns r => encJcc .ns r
  | .jp r => encJcc .p r
  | .jnp r => encJcc .np r
  | .jl r => encJcc .l r
  | .jnl r => encJcc .nl r
  | .jle r => encJcc .le r
  | .jnle r => encJcc .nle r
  | .jmp (.short v) => [0xEB, v]
  | .jmp (.near z) => 0xE9 :: encIz z
  | .jmpRm rm => 0xFF :: encModRm .n4 rm
  | .jmpFar p => 0xEA :: encFar p
  | .jmpFarMem m => 0xFF :: encModRm .n5 (.mem m)
  | .call z => 0xE8 :: encIz z
  | .callRm rm => 0xFF :: encModRm .n2 rm
  | .callFar p => 0x9A :: encFar p
  | .callFarMem m => 0xFF :: encModRm .n3 (.mem m)
  | .ret => [0xC3]
  | .retImm v => 0xC2 :: enc16 v
  | .retf => [0xCB]
  | .retfImm v => 0xCA :: enc16 v
  | .iret | .iretd => [0xCF]
  | .loop v => [0xE2, v]
  | .loope v => [0xE1, v]
  | .loopne v => [0xE0, v]
  | .jcxz v => [0xE3, v]
  | .int v => [0xCD, v]
  | .int3 => [0xCC]
  | .into => [0xCE]
  | .bound r m => 0x62 :: encModRm r (.mem m)
  | .movsb => [0xA4]
  | .movsw | .movsd => [0xA5]
  | .cmpsb => [0xA6]
  | .cmpsw | .cmpsd => [0xA7]
  | .scasb => [0xAE]
  | .scasw | .scasd => [0xAF]
  | .lodsb => [0xAC]
  | .lodsw | .lodsd => [0xAD]
  | .stosb => [0xAA]
  | .stosw | .stosd => [0xAB]
  | .insb => [0x6C]
  | .insw | .insd => [0x6D]
  | .outsb => [0x6E]
  | .outsw | .outsd => [0x6F]
  | .inp .b (.imm v) => [0xE4, v]
  | .inp .v (.imm v) => [0xE5, v]
  | .inp .b .dx => [0xEC]
  | .inp .v .dx => [0xED]
  | .outp .b (.imm v) => [0xE6, v]
  | .outp .v (.imm v) => [0xE7, v]
  | .outp .b .dx => [0xEE]
  | .outp .v .dx => [0xEF]
  | .hlt => [0xF4]
  | .cli => [0xFA]
  | .sti => [0xFB]
  | .wait => [0x9B]
  | .arpl rm r => 0x63 :: encModRm r rm
  | .sldt rm => 0x0F :: 0x00 :: encModRm .n0 rm
  | .str rm => 0x0F :: 0x00 :: encModRm .n1 rm
  | .lldt rm => 0x0F :: 0x00 :: encModRm .n2 rm
  | .ltr rm => 0x0F :: 0x00 :: encModRm .n3 rm
  | .sgdt m => 0x0F :: 0x01 :: encModRm .n0 (.mem m)
  | .sidt m => 0x0F :: 0x01 :: encModRm .n1 (.mem m)
  | .lgdt m => 0x0F :: 0x01 :: encModRm .n2 (.mem m)
  | .lidt m => 0x0F :: 0x01 :: encModRm .n3 (.mem m)
  | .smsw rm => 0x0F :: 0x01 :: encModRm .n4 rm
  | .lmsw rm => 0x0F :: 0x01 :: encModRm .n6 rm
  | .clts => [0x0F, 0x06]
  | .rdmsr => [0x0F, 0x32]
  | .wrmsr => [0x0F, 0x30]
  | .ud f => encUd f

/-! ## The host's reading of a table row -/

/-- The bytes of an instruction whose bits are `w`, bit 0 the least significant of the first byte, every bit from
`nbits` on zero: `n` bytes of it. -/
def tableBytes (n nbits w : Nat) : List Byte :=
  (List.range n).map fun i => BitVec.ofNat 8 ((w % 2 ^ nbits) >>> (8 * i))

/-- How many bytes a table word is laid out in: more than the longest instruction without prefixes, 11
(30_encoding R173). -/
def tableLen : Nat := 16

/-- The instruction the decoder reads from a table word, at the sizes of the reset state (16-bit operand and address
size, 10_state R52). -/
def decodeTableWord (nbits w : Nat) : Option Instr :=
  match decode ⟨.s16, .s16⟩ (tableBytes tableLen nbits w) with
  | .ok (i, _) => some i
  | .error _ => none

end Sys2Proof
end

