-- ==== Sys2Proof/Machine/Fetch.lean ====
section
/-! DEFINITION. Fetching: the byte fetch with its failure (20_memory R115, 30_encoding R172, 60_exceptions R684), and
one item of an instruction, which is a prefix byte or everything after the prefixes (30_encoding R170, R175). -/

namespace Sys2Proof.Machine

/-- The linear address of the next byte to fetch (10_state R36). -/
def State.fetchLin (s : State) : Word := s.segs.cs.base + s.eip

/-- Whether EIP is at the top of the offset space, so that it cannot be incremented (10_state R38; log entry 12). -/
def State.atTop (s : State) : Bool :=
  s.eip == 0xFFFFFFFF || (decide (s.segs.cs.size = .s16) && s.eip == 0x0000FFFF)

/-- The reason bit with which a refused fetch of the byte at EIP ends the run; none when the fetch is permitted or
the run flag for it is not active (20_memory R115, 60_exceptions R684). -/
def State.fetchStop (s : State) : Option (BitVec 8) :=
  match s.fetchRefused s.fetchLin with
  | none => none
  | some true => if s.cfg.runFlags.getLsbD 2 then some reasonNoExecCode else none
  | some false => if s.cfg.runFlags.getLsbD 4 then some reasonNoValidCode else none

/-- How many bytes of the current instruction have been fetched. -/
def State.fetched (s : State) : Nat := (s.eip - s.intr.savedEip).toNat

/-- Whether the instruction is now longer than `MAX_INSN_BYTES` (30_encoding R173). -/
def State.tooLong (s : State) : Bool :=
  match s.cfg.maxInsnBytes with
  | none => false
  | some m => decide (m < s.fetched)

/-- What fetching bytes comes to. -/
inductive Fetched where
  /-- the bytes are fetched and EIP is past them -/
  | done (s : State)
  /-- a fetch failure ended the instruction and halted the core -/
  | stopped (s : State)
  /-- the model refuses -/
  | refused (r : Refusal)
  deriving DecidableEq, Repr

/-- A fetch failure: EIP back at the start of the instruction, halted with the reason (60_exceptions R684). -/
def State.fetchFailed (r : BitVec 8) (s : State) : State := (s.setEip s.intr.savedEip).haltWith r

/-- `FetchByte()`, `n` times (30_encoding R172). -/
def State.fetchBytes : Nat → State → Fetched
  | 0, s => .done s
  | n + 1, s =>
    let s1 := s.fetchTouch s.fetchLin
    match s.fetchStop with
    | some r => .stopped (s1.fetchFailed r)
    | none =>
      if s1.atTop then .refused .eipRunsOffSegment
      else
        let s2 := s1.setEip (s1.eip + 1)
        if s2.tooLong then .refused .insnTooLong else State.fetchBytes n s2

/-- The bytes that the fetches of the next `n` bytes, one after the other, give a decoder, 0xFF for a refused one
(20_memory R115, R124). -/
def State.codeBytes : Nat → State → List Byte
  | 0, _ => []
  | n + 1, s =>
    let t := s.fetchTouch s.fetchLin
    s.fetchVal s.fetchLin :: State.codeBytes n (t.setEip (t.eip + 1))

/-- The longest run of bytes from the opcode on (30_encoding R173). -/
def maxItemBytes : Nat := 11

/-- What fetching one item of an instruction comes to. -/
inductive Item where
  /-- a prefix or the rest of the instruction, and the state with its bytes fetched -/
  | instr (i : Instr) (s : State)
  | stopped (s : State)
  | refused (r : Refusal)
  deriving DecidableEq, Repr

/-- Fetch and decode one item: the decoder says from the bytes how many it consumes, and those are fetched. -/
def State.fetchItem (s : State) : Item :=
  let bs := s.codeBytes maxItemBytes
  match decode s.decMode bs with
  | .error _ => .refused .decodeTruncated
  | .ok (i, rest) =>
    match s.fetchBytes (bs.length - rest.length) with
    | .done s1 => .instr i s1
    | .stopped s1 => .stopped s1
    | .refused r => .refused r

end Sys2Proof.Machine
end

