-- ==== Sys2Proof/Machine/RunLoop.lean ====
section
/-! DEFINITION. One cycle of the execution loop (60_exceptions R681 to R688). -/

namespace Sys2Proof.Machine

/-- The reason bits the termination checks set (60_exceptions R682). -/
def State.limitBits (s : State) : BitVec 8 :=
  (if s.cfg.runFlags.getLsbD 1 && decide (s.cfg.maxInstr ≤ s.ctl.icount) then reasonMaxInstr else 0) |||
  (if s.cfg.runFlags.getLsbD 0 && Config.timeoutExpired s.draws then reasonTimeout else 0) |||
  (if s.cfg.runFlags.getLsbD 3 && s.cfg.tightLoop && Config.tightLoop s then reasonTightLoop else 0)

/-- The reason with which step 3 of the cycle ends the run, 0 when it goes on (60_exceptions R681). -/
def State.stopBits (s : State) : BitVec 8 := s.ctl.reason ||| s.limitBits

/-- Step 4 of the cycle: whether the code check stops the run, and the state it leaves (60_exceptions R681, R690,
R692). -/
def State.askCheck (s : State) : Bool × State :=
  if s.cfg.codeCheck then ((Config.codeCheck s).1, s.resume (Config.codeCheck s).2) else (false, s)

/-- The end of a run; everything else stays as it is (60_exceptions R688). -/
def State.endRun (s : State) : State := s.setCtl { s.ctl with running := false }

/-- The end of a run with a reason. -/
def State.endRunFor (r : BitVec 8) (s : State) : State := (s.setCtl { s.ctl with reason := r }).endRun

/-- Step 5 of the cycle: save EIP and CS, clear PFX (60_exceptions R681, R683). -/
def State.startInstr (s : State) : State :=
  (s.setIntr { s.intr with savedEip := s.eip, savedCs := s.segs.cs }).setPfx Pfx.clear

/-- Step 7 of the cycle: count the instruction (60_exceptions R681, R687). -/
def State.counted (s : State) : State := s.setCtl { s.ctl with icount := s.ctl.icount + 1 }

/-- The fuel of the prefix loop: EIP advances with every byte and the fetch refuses at the top of the offset space,
so this is more than any instruction uses (30_encoding R173). -/
def itemFuel : Nat := 4294967297

/-- Step 6 of the cycle: fetch, decode and execute the items of one instruction; a prefix is followed by more of the
same instruction (30_encoding R175, 60_exceptions R681). -/
def runItems : Nat → State → Out
  | 0, _ => .refused .eipRunsOffSegment
  | n + 1, s =>
    match s.fetchItem with
    | .stopped s1 => .next s1
    | .refused r => .refused r
    | .instr i s1 =>
      if i.isPfx then
        match exec i s1 with
        | .next s2 => runItems n s2
        | .fault f => .fault f
        | .refused r => .refused r
      else
        match exec i s1 with
        | .next s2 => .next s2.counted
        | .fault f => .fault f
        | .refused r => .refused r

/-- Steps 2 to 7 of the cycle, after delivery (60_exceptions R681). -/
def State.afterDelivery (s : State) : Out :=
  if s.ctl.halted then .next s.endRun
  else if s.stopBits ≠ 0 then .next (s.endRunFor s.stopBits).drew
  else
    let u := s.askCheck.2
    if s.askCheck.1 then .next (u.endRunFor (u.ctl.reason ||| reasonCodeCheck)).drew
    else runItems itemFuel u.drew.startInstr

/-- One cycle (60_exceptions R681). -/
def State.cycle (s : State) : Out :=
  if s.ctl.running then s.deliver.afterDelivery else .fault (.runEnded s.ctl.reason)

/-! ## Placing an instruction where the next fetch reads it -/

/-- Make bytes executable and valid code from a linear address on (20_memory R115, 70_reset_and_hazards R716). -/
def Memory.placeCode (m : Memory) : Word → List Byte → Memory
  | _, [] => m
  | a, b :: bs => ((m.setData a b).setAttr a 0x0C).placeCode (a + 1) bs

end Sys2Proof.Machine
end

