-- ==== Sys2Proof/Machine/Step.lean ====
section
/-! DEFINITION. The step of the machine, and the placing of a table word where the next step fetches. -/

namespace Sys2Proof.Machine

/-- One step: one cycle of the execution loop (00_scope R22, 60_exceptions R681). -/
def step : State → Host.Outcome State Fault Refusal := State.cycle

/-- The state with the instruction of an opcode-table word, zeros after it, as executable code at CS:EIP. -/
def State.withFetchWord (s : State) (nbits w : Nat) : State :=
  s.setMem (s.mem.placeCode s.fetchLin (tableBytes tableLen nbits w))

end Sys2Proof.Machine
end

