-- ==== Sys2Proof/Machine/HostCalls.lean ====
section
/-! DEFINITION. What the host can do between runs, as functions on the state; no step calls them (10_state R58;
20_memory R120 to R123, R151; 60_exceptions R680, R688). -/

namespace Sys2Proof.Machine

/-- `setPerm` on `n` bytes from a linear address on: the permission nibble is replaced, the sticky bits are kept
(20_memory R120). -/
def Memory.setPermFrom (m : Memory) (mask : Byte) : Nat → Word → Memory
  | 0, _ => m
  | n + 1, a => (m.setAttr a ((m.attrAt a &&& 0xF0) ||| (mask &&& 0x0F))).setPermFrom mask n (a + 1)

/-- `setPerm(startAddr, endAddr, mask)`; `endAddr` is a 33-bit value (20_memory R120). -/
def State.hostSetPerm (start : Word) (stop : Nat) (mask : Byte) (s : State) : State :=
  s.setMem (s.mem.setPermFrom mask (min stop (2 ^ 32) - start.toNat) start)

/-- Give `bytes.length` bytes data and VALID (20_memory R122). -/
def Memory.fillFrom (m : Memory) : Word → List Byte → Memory
  | _, [] => m
  | a, b :: bs => ((m.setData a b).setAttr a (m.attrAt a ||| 0x08)).fillFrom (a + 1) bs

/-- `setPage` with a buffer, whose bytes become the page's (20_memory R122). From then on the page's data bytes are the
buffer's: a core write is seen in it, and the host's writes to it are `hostWriteBuffer`. DESIGN CHOICE, unsafe: two pages
given one buffer share nothing, so that a core write to one is not read in the other (log entry 21). -/
def State.hostSetPage (page : Word) (buffer : Vector Byte 4096) (s : State) : State :=
  s.setMem (s.mem.fillFrom (page &&& 0xFFFFF000) buffer.toList)

/-- New data for several bytes, their attributes kept. -/
def Memory.dataFrom (m : Memory) : Word → List Byte → Memory
  | _, [] => m
  | a, b :: bs => (m.setData a b).dataFrom (a + 1) bs

/-- A host's write to the buffer that backs an aliased page, `bytes` from the byte at linear address `a` on: later core
reads see the data, no attribute changes (20_memory R122). -/
def State.hostWriteBuffer (a : Word) (bytes : List Byte) (s : State) : State := s.setMem (s.mem.dataFrom a bytes)

/-- Revert `n` bytes to interpreter-owned storage: free data, VALID cleared (20_memory R122, U10). -/
def Memory.revertFrom (m : Memory) (draw : Nat) : Nat → Word → Memory
  | 0, _ => m
  | n + 1, a =>
    ((m.setData a (Config.freeByte draw a.toNat)).setAttr a (m.attrAt a &&& 0xF7)).revertFrom draw n (a + 1)

/-- `setPage` with null (20_memory R122). -/
def State.hostRevertPage (page : Word) (s : State) : State :=
  (s.setMem (s.mem.revertFrom s.draws 4096 (page &&& 0xFFFFF000))).drew

/-- `resetAccessStats()`: the sticky bits of every byte, and `mem_invalid` (20_memory R123). -/
def State.hostResetAccessStats (s : State) : State :=
  s.setMem { s.mem with
    attr := (s.mem.attr.map fun c => (c.1, c.2 &&& 0x0F)).filter fun c => decide (c.2 ≠ 0)
    invalid := false }

/-- `setIoPerm` on `n` ports from a port on (20_memory R151). -/
def Ports.setPermFrom (q : Ports) (bits : Byte) : Nat → BitVec 16 → Ports
  | 0, _ => q
  | n + 1, p => ({ q with perm := Sparse.set 0 q.perm p.toNat bits }).setPermFrom bits n (p + 1)

/-- `setIoPerm(startPort, endPort, bits)` (20_memory R151). -/
def State.hostSetIoPerm (start : BitVec 16) (stop : Nat) (bits : Byte) (s : State) : State :=
  s.setPorts (s.ports.setPermFrom bits (min stop (2 ^ 16) - start.toNat) start)

/-- The host's setting of `MSR[i]` (10_state R58; 60_exceptions R688). -/
def State.hostSetMsr (i : Word) (v : BitVec 64) (s : State) : State :=
  s.setSys { s.sys with msr := Sparse.set 0 s.sys.msr i.toNat v }

/-- The host's setting of `MSRPERM[i]`: bit 0 lets RDMSR read, bit 1 lets WRMSR write (10_state R58; 60_exceptions
R688). -/
def State.hostSetMsrPerm (i : Word) (v : BitVec 2) (s : State) : State :=
  s.setSys { s.sys with msrPerm := Sparse.set 0 s.sys.msrPerm i.toNat v }

/-- The host's write to a segment register through `LoadSeg` (60_exceptions R688; 20_memory R130 to R136). -/
def State.hostLoadSeg (g : Seg) (sel : BitVec 16) (s : State) : State := loadSeg g sel s id

/-- The host's write to a segment register that sets all four fields (60_exceptions R688). -/
def State.hostSetSeg (g : Seg) (v : SegReg) (s : State) : State := s.setSegs (s.segs.set g v)

/-- The host's write to any other state elements: `t` is the state as the host leaves it (60_exceptions R688). -/
def State.hostWrite (t s : State) : State := s.resume t

/-- The run entry, with `run_flags` and `MAX_INSTR`: `halted`, `reason` and `icount` are 0, all else is as the host left
it (60_exceptions R680). -/
def State.hostRun (flags : BitVec 5) (limit : Nat) (s : State) : State :=
  { s with ctl := { running := true, halted := false, reason := 0, icount := 0 }
           cfg := { s.cfg with runFlags := flags, maxInstr := limit } }

/-- The host's `Raise` (60_exceptions R651, R675, R688): `err` is the error code if one is given. -/
def State.hostRaise (vector : Byte) (kind : IntKind) (err : Option Word) (s : State) : State :=
  s.post { vector := vector, kind := kind, hasErr := err.isSome, restart := decide (kind = .fault),
           err := err.getD 0 }

end Sys2Proof.Machine
end

