-- ==== Sys2Proof/Safety.lean ====
section
/-! DEFINITION. What counts as a safe run of this machine, and the terms the statements use: completing, what an
instruction leaves unchanged, what a write, a push, a port access and a raise leave, and the flag tables of
40_alu_primitives.md as arithmetic. Nothing here is used by the machine. -/

namespace Sys2Proof.Machine

/-- The step answers a next state. -/
def State.proceeds (s : State) : Prop := ∃ t, step s = .next t

/-- The step is one the model refuses, which is no behaviour of the hardware (60_exceptions R686). -/
def State.isRefused (s : State) : Prop := ∃ r, step s = .refused r

/-- "No invalid access happened in this run": the sticky flag is still clear (20_memory R118). -/
def State.noInvalidAccess (s : State) : Bool := !s.mem.invalid

/-- Instruction `i` completes in `s`: `exec` answers a next state, of which `P` holds. -/
def completes (i : Instr) (s : State) (P : State → Prop) : Prop := ∃ t, exec i s = .next t ∧ P t

/-- The top of the offset space of the code segment (10_state R36, R38). -/
def State.eipTop (s : State) : Nat :=
  match s.segs.cs.size with
  | .s16 => 0xFFFF
  | .s32 => 0xFFFFFFFF

/-- The reason bit of a refused fetch of the byte at a linear address: NO_EXEC_CODE or NO_VALID_CODE when its run flag
is active; 0 when the fetch returns the data, or the sentinel (60_exceptions R684). -/
def State.fetchReason (s : State) (a : Word) : BitVec 8 :=
  if s.mem.permitted .fetch a = true then 0
  else if (s.mem.attrAt a).getLsbD 2 = false then (if s.cfg.runFlags.getLsbD 2 = true then 0x04 else 0)
  else if s.cfg.runFlags.getLsbD 4 = true then 0x10 else 0

/-- The prefix bytes `ps`, fetched and executed in turn from `s`, leave `t` (30_encoding R175): each is what the bytes at
CS:EIP decode to at the sizes the ones before it leave, and is executed with its byte fetched and EIP past it. -/
def prefixesRun : List Instr → State → State → Prop
  | [], s, t => t = s
  | p :: ps, s, t =>
    p.isPfx = true ∧
    (∃ rest, rest.length = 10 ∧
      decode ⟨s.osz, s.asz⟩ ((span 11 (s.segs.cs.base + s.eip)).map s.mem.fetchByte) = .ok (p, rest)) ∧
    ∃ u, exec p { s with mem := s.mem.touch .fetch (s.segs.cs.base + s.eip), eip := s.eip + 1 } = .next u ∧
      prefixesRun ps u t

/-! ## What is left unchanged -/

/-- Every byte of memory outside `ws` reads, holds and permits what it did. -/
def Memory.keepsBut (m m' : Memory) (ws : List Word) : Prop :=
  ∀ b, b ∉ ws → m'.readByte b = m.readByte b ∧ m'.dataAt b = m.dataAt b ∧ m'.perms b = m.perms b

/-- Every byte of memory reads, holds and permits what it did; sticky bits may be set. -/
def Memory.kept (m m' : Memory) : Prop := m.keepsBut m' []

/-- System registers, prefix state, run control, launch parameters and the memory handler are unchanged. -/
def State.sameSystem (s t : State) : Prop :=
  t.sys = s.sys ∧ t.pfx = s.pfx ∧ t.ctl = s.ctl ∧ t.cfg = s.cfg ∧ t.io = s.io

/-- Besides that, the pending slot with the saved EIP and CS and the ports are unchanged. -/
def State.sameButSegs (s t : State) : Prop := s.sameSystem t ∧ t.intr = s.intr ∧ t.ports = s.ports

/-- Everything but general registers, EIP, EFLAGS and memory is unchanged. -/
def State.sameMachine (s t : State) : Prop := s.sameButSegs t ∧ t.segs = s.segs

/-- Everything but general registers, EFLAGS and memory is unchanged. -/
def State.sameButData (s t : State) : Prop := s.sameMachine t ∧ t.eip = s.eip

/-- Only the general registers differ; memory reads as before. -/
def State.onlyRegs (s t : State) : Prop := s.sameButData t ∧ t.flags = s.flags ∧ s.mem.kept t.mem

/-! ## What a write leaves -/

/-- A value stored at a linear address: byte by byte, where the byte may be written (20_memory R114, R116). -/
def Memory.stored (m m' : Memory) (w : Width) (a : Word) (v : BitVec w.bits) : Prop :=
  m.keepsBut m' (span w.bytes a) ∧
  ∀ c ∈ (span w.bytes a).zip (leBytes w v),
    m'.dataAt c.1 = (if m.permitted .write c.1 then c.2 else m.dataAt c.1) ∧
    m'.perms c.1 = (if m.permitted .write c.1 then m.perms c.1 ||| 0x08 else m.perms c.1)

/-- A value written to an operand: to a register, or to memory at the operand's linear address. -/
def State.wrote (s t : State) (w : Width) (p : Place) (v : BitVec w.bits) : Prop :=
  match p with
  | .reg r => t.regs = s.regs.setRn w r v ∧ s.mem.kept t.mem
  | .mem g off => t.regs = s.regs ∧ s.mem.stored t.mem w ((s.segs.get g).base + off) v

/-- The bytes at a linear address: all readable, with the given data. -/
def Memory.holds (m : Memory) (a : Word) (l : List Byte) : Prop :=
  ∀ c ∈ (span l.length a).zip l, m.permitted .read c.1 = true ∧ m.dataAt c.1 = c.2

/-- One push through the stack segment `g`: 16-bit or 32-bit pointer by its size (41_data_movement R330). -/
def pushed (g : SegReg) (w : Width) (v : BitVec w.bits) (b : Bank) (m : Memory) (b' : Bank) (m' : Memory) : Prop :=
  match g.size with
  | .s16 =>
    b' = b.setRn .b16 .n4 (b.rn .b16 .n4 - BitVec.ofNat 16 w.bytes) ∧
    m.stored m' w (g.base + (b.rn .b16 .n4 - BitVec.ofNat 16 w.bytes).setWidth 32) v
  | .s32 =>
    b' = b.setRn .b32 .n4 (b.rn .b32 .n4 - BitVec.ofNat 32 w.bytes) ∧
    m.stored m' w (g.base + (b.rn .b32 .n4 - BitVec.ofNat 32 w.bytes)) v

/-- Several pushes, the first value first. -/
def pushSeq (g : SegReg) (w : Width) : List (BitVec w.bits) → Bank → Memory → Bank → Memory → Prop
  | [], b, m, b', m' => b' = b ∧ m' = m
  | v :: vs, b, m, b', m' => ∃ b1 m1, pushed g w v b m b1 m1 ∧ pushSeq g w vs b1 m1 b' m'

/-- The stack offset `k` bytes above the stack pointer, by the stack size (41_data_movement R331). -/
def State.above (s : State) (k : Nat) : Word :=
  match s.segs.ss.size with
  | .s16 => (s.regs.rn .b16 .n4 + BitVec.ofNat 16 k).setWidth 32
  | .s32 => s.regs.rn .b32 .n4 + BitVec.ofNat 32 k

/-- What the stack holds `k` bytes above the stack pointer. -/
def State.stackAt (s : State) (w : Width) (k : Nat) : BitVec w.bits := s.mem.val w (s.segs.ss.base + s.above k)

/-- A register file with the stack pointer moved up by `k` bytes, by the size of the stack segment `g`
(41_data_movement R331). -/
def SegReg.releasedIn (g : SegReg) (b : Bank) (k : Nat) : Bank :=
  match g.size with
  | .s16 => b.setRn .b16 .n4 (b.rn .b16 .n4 + BitVec.ofNat 16 k)
  | .s32 => b.setRn .b32 .n4 (b.rn .b32 .n4 + BitVec.ofNat 32 k)

/-- The general registers with the stack pointer moved up by `k` bytes. -/
def State.released (s : State) (k : Nat) : Bank := s.segs.ss.releasedIn s.regs k

/-- A segment register after a load in real mode (20_memory R130). -/
def SegReg.inReal (g : SegReg) (sel : BitVec 16) : SegReg :=
  { g with sel := sel, base := BitVec.ofNat 32 (16 * sel.toNat) }

/-- A segment record from the eight bytes of its descriptor (20_memory R133, R135). -/
def segOfBytes (sel : BitVec 16) (b0 b1 b2 b3 b4 b5 b6 b7 : Byte) : SegReg :=
  let limit20 := b0.toNat + 256 * b1.toNat + 65536 * (b6.toNat % 16)
  { sel := sel
    base := b7 ++ b4 ++ b3 ++ b2
    limit := BitVec.ofNat 32 (if b6.getLsbD 7 then 4096 * limit20 + 4095 else limit20)
    acc := b6.extractLsb' 4 4 ++ b5 }

/-- What a load of a segment register that holds `old` comes to: its new record, or none where #GP with the selector is
raised (20_memory R130 to R135). A descriptor that is not inside its table, is not readable, or is not that of a present
segment is refused. -/
def State.segOutcome (s : State) (old : SegReg) (sel : BitVec 16) : Option SegReg :=
  let base := if sel.getLsbD 2 = true then s.sys.ldtr.base else s.sys.gdtr.base
  let limit := if sel.getLsbD 2 = true then s.sys.ldtr.limit.toNat else s.sys.gdtr.limit.toNat
  let offset := sel.toNat / 8 * 8
  let byte : Nat → Byte := fun k => s.mem.dataAt (base + BitVec.ofNat 32 (offset + k))
  if s.pe = false then some (old.inReal sel)
  else if sel.toNat < 4 then some ⟨sel, 0, 0, 0⟩
  else if limit < offset + 7 then none
  else if (span 8 (base + BitVec.ofNat 32 offset)).any (fun b => !s.mem.permitted .read b) = true then none
  else if (byte 5).getLsbD 7 = true ∧ (byte 5).getLsbD 4 = true then
    some (segOfBytes sel (byte 0) (byte 1) (byte 2) (byte 3) (byte 4) (byte 5) (byte 6) (byte 7))
  else none

/-- The frame pointers ENTER copies: each turn lowers the frame pointer of the stack's size by the width and pushes what
the stack holds there (41_data_movement R353). -/
def frameCopies (g : SegReg) (w : Width) : Nat → Bank → Memory → Bank → Memory → Prop
  | 0, b, m, b', m' => b' = b ∧ m' = m
  | n + 1, b, m, b', m' =>
    let z := g.size.width
    let bp := b.rn z .n5 - BitVec.ofNat z.bits w.bytes
    ∃ m1 b2 m2, m.kept m1 ∧
      pushed g w (m.val w (g.base + bp.setWidth 32)) (b.setRn z .n5 bp) m1 b2 m2 ∧
      frameCopies g w n b2 m2 b' m'

/-- Elements stored one after the other: the address and the value of element `n`, the value from the memory as the
elements before it left it (44_string_io R541). -/
def storedInTurn (w : Width) (place : Nat → Word) (value : Memory → Nat → BitVec w.bits) :
    List Nat → Memory → Memory → Prop
  | [], m, m' => m' = m
  | n :: ns, m, m' => ∃ m1 m2, m.kept m1 ∧ m1.stored m2 w (place n) (value m n) ∧ storedInTurn w place value ns m2 m'

/-- EFLAGS, as a word, after `WriteFlags` of an image: bits the privilege level may not write are kept
(41_data_movement R352). -/
def State.flagsWritten (s : State) (v : Word) : Word :=
  let mask : Word := 0x00007FD5 &&& (if s.pe = true ∧ s.cpl ≠ 0 then ~~~0x3000 else 0xFFFFFFFF) &&&
    (if s.pe = true ∧ s.flags.iopl.toNat < s.cpl.toNat then ~~~0x0200 else 0xFFFFFFFF)
  (s.flags.toWord &&& ~~~mask) ||| (v &&& mask)

/-! ## What a raise leaves (60_exceptions R650, R651, R666) -/

/-- The interrupt is recorded unless one was pending, and nothing else happened. -/
def State.raised (s t : State) (p : Pending) : Prop :=
  s.sameSystem t ∧ t.regs = s.regs ∧ t.eip = s.eip ∧ t.flags = s.flags ∧ t.segs = s.segs ∧ t.ports = s.ports ∧
  s.mem.kept t.mem ∧ t.intr.savedEip = s.intr.savedEip ∧ t.intr.savedCs = s.intr.savedCs ∧
  t.intr.pending = some (match s.intr.pending with | some q => q | none => p)

/-! ## Flag tables -/

/-- TF, IF, DF, IOPL and NT are unchanged. -/
def Eflags.sameControl (f f' : Eflags) : Prop :=
  f'.tf = f.tf ∧ f'.ifl = f.ifl ∧ f'.df = f.df ∧ f'.iopl = f.iopl ∧ f'.nt = f.nt

/-- Whether the low eight bits hold an even number of ones. -/
def evenOnes {n : Nat} (r : BitVec n) : Bool :=
  decide (((List.range 8).filter fun i => r.getLsbD i).length % 2 = 0)

/-- ZF, SF and PF are those of a result (40_alu_primitives R250). -/
def Eflags.ofResult {n : Nat} (f : Eflags) (r : BitVec n) : Prop :=
  f.zf = decide (r.toNat = 0) ∧ f.sf = r.getLsbD (n - 1) ∧ f.pf = evenOnes r

/-- Whether an integer fits in `n` signed bits. -/
def fitsSigned (n : Nat) (z : Int) : Bool := decide (-(2 ^ (n - 1)) ≤ z) && decide (z ≤ 2 ^ (n - 1) - 1)

/-- The truth table of an addition with carry-in `c` (40_alu_primitives R253, R254). -/
def addTable {n : Nat} (d v : BitVec n) (c : Bool) (r : BitVec n) (f f' : Eflags) : Prop :=
  r.toNat = (d.toNat + v.toNat + c.toNat) % 2 ^ n ∧
  f'.cf = decide (2 ^ n ≤ d.toNat + v.toNat + c.toNat) ∧
  f'.ovf = !fitsSigned n (d.toInt + v.toInt + c.toNat) ∧
  f'.af = decide (16 ≤ d.toNat % 16 + v.toNat % 16 + c.toNat) ∧
  f'.ofResult r ∧ f.sameControl f'

/-- The truth table of a subtraction with borrow-in `c` (40_alu_primitives R256, R257). -/
def subTable {n : Nat} (d v : BitVec n) (c : Bool) (r : BitVec n) (f f' : Eflags) : Prop :=
  (r.toNat : Int) = ((d.toNat : Int) - v.toNat - c.toNat) % 2 ^ n ∧
  f'.cf = decide (d.toNat < v.toNat + c.toNat) ∧
  f'.ovf = !fitsSigned n (d.toInt - v.toInt - c.toNat) ∧
  f'.af = decide (d.toNat % 16 < v.toNat % 16 + c.toNat) ∧
  f'.ofResult r ∧ f.sameControl f'

/-- The flags of a logic operation; AF is free (40_alu_primitives R263). -/
def logicTable {n : Nat} (r : BitVec n) (f f' : Eflags) : Prop :=
  f'.cf = false ∧ f'.ovf = false ∧ f'.ofResult r ∧ f.sameControl f'

/-- The condition codes (43_control_transfer R481). -/
def condTable (f : Eflags) : Cond → Prop
  | .o => f.ovf = true
  | .no => f.ovf = false
  | .b => f.cf = true
  | .nb => f.cf = false
  | .z => f.zf = true
  | .nz => f.zf = false
  | .be => f.cf = true ∨ f.zf = true
  | .nbe => f.cf = false ∧ f.zf = false
  | .s => f.sf = true
  | .ns => f.sf = false
  | .p => f.pf = true
  | .np => f.pf = false
  | .l => f.sf ≠ f.ovf
  | .nl => f.sf = f.ovf
  | .le => f.zf = true ∨ f.sf ≠ f.ovf
  | .nle => f.zf = false ∧ f.sf = f.ovf

/-! ## Ports (20_memory R152, R153) -/

/-- What a port read of `w` at `p` answering `v` leaves: refused bytes read 0xFF and set the sticky flag, permitted
ones are counted; the values of permitted bytes are free. -/
def State.portRead (s t : State) (w : Width) (p : BitVec 16) (v : BitVec w.bits) : Prop :=
  (∀ c ∈ (portSpan w.bytes p).zip (leBytes w v), s.ports.canRead c.1 = false → c.2 = 0xFF) ∧
  t.mem.invalid = (s.mem.invalid || (portSpan w.bytes p).any fun q => !s.ports.canRead q) ∧
  (∀ q : BitVec 16, Sparse.get 0 t.ports.rd q.toNat =
    Sparse.get 0 s.ports.rd q.toNat + (if q ∈ portSpan w.bytes p ∧ s.ports.canRead q = true then 1 else 0)) ∧
  t.ports.wr = s.ports.wr ∧ t.ports.perm = s.ports.perm ∧ t.ports.out = s.ports.out

/-- What a port write leaves: one event when every port of the span may be written, else one event for each byte that
may; refused bytes set the sticky flag; permitted ones are counted. -/
def State.portWrote (s t : State) (w : Width) (p : BitVec 16) (v : BitVec w.bits) : Prop :=
  t.ports.out = s.ports.out ++
    (if (portSpan w.bytes p).all s.ports.canWrite then [⟨p, w.bytes, v.setWidth 32⟩]
     else ((portSpan w.bytes p).zip (leBytes w v)).filterMap fun c =>
       if s.ports.canWrite c.1 then some ⟨c.1, 1, c.2.setWidth 32⟩ else none) ∧
  t.mem.invalid = (s.mem.invalid || (portSpan w.bytes p).any fun q => !s.ports.canWrite q) ∧
  (∀ q : BitVec 16, Sparse.get 0 t.ports.wr q.toNat =
    Sparse.get 0 s.ports.wr q.toNat + (if q ∈ portSpan w.bytes p ∧ s.ports.canWrite q = true then 1 else 0)) ∧
  t.ports.rd = s.ports.rd ∧ t.ports.perm = s.ports.perm

/-! ## String operands (44_string_io R540) -/

/-- An index register as an offset, by the address size. -/
def State.indexAt (s : State) (i : Num8) : Word :=
  match s.asz with
  | .s16 => (s.regs.rn .b16 i).setWidth 32
  | .s32 => s.regs.rn .b32 i

/-- A register file with an index register of the address size advanced by `k` elements of width `w`, down when DF is
set. -/
def State.advanced (s : State) (w : Width) (k : Nat) (i : Num8) (b : Bank) : Bank :=
  match s.asz with
  | .s16 => b.setRn .b16 i (if s.flags.df then b.rn .b16 i - BitVec.ofNat 16 (k * w.bytes)
      else b.rn .b16 i + BitVec.ofNat 16 (k * w.bytes))
  | .s32 => b.setRn .b32 i (if s.flags.df then b.rn .b32 i - BitVec.ofNat 32 (k * w.bytes)
      else b.rn .b32 i + BitVec.ofNat 32 (k * w.bytes))

/-- The source segment of a string instruction: the override, or DS (44_string_io R540). -/
def State.sourceSeg (s : State) : SegReg :=
  match s.pfx.seg with
  | some g => s.segs.get g
  | none => s.segs.ds

end Sys2Proof.Machine
end

