-- ==== Sys2Proof/Certificates/Slice0/Obligations.lean ====
section
/-! DEFINITION. The statements for the provers. Each docstring names the rules of spec/ it formalises. A value the spec
leaves free (00_scope R16) is left unconstrained: such a statement holds whatever it is. -/

open Sys2Proof Sys2Proof.Machine

/-! ## The whole machine -/

/-- A step runs the instruction decoded at CS:EIP (60_exceptions R681 steps 2 to 7, R684, 30_encoding R171, R172): with a
run in progress, nothing pending, not halted and no reason to stop, when the code check lets the run go on, in the state
`u` that it leaves (`s` itself where none is installed), the bytes the fetch returns decode to an instruction that is no
prefix, no byte's refusal ends the run (a refused byte whose run flag is not active is the sentinel) and EIP stays inside
the offset space, the step is `exec` of it, in the state whose EIP is past it, with the saved EIP and CS, a clear PFX and
the fetch's sticky bits; then the instruction is counted. The memory is the default one, not one that MEMIO replaces. -/
def Obligations.StepRunsDecodedInstruction : Prop :=
  ∀ (s u : State) (i : Instr) (rest : List Byte),
    s.paged = true → s.ctl.running = true → s.intr.pending = none → s.ctl.halted = false → s.stopBits = 0 →
    s.cfg.maxInsnBytes = none → s.askCheck = (false, u) →
    decode ⟨u.defSz, u.defSz⟩ ((span 11 (u.segs.cs.base + u.eip)).map u.mem.fetchByte) = .ok (i, rest) →
    i.isPfx = false →
    (∀ b ∈ span (11 - rest.length) (u.segs.cs.base + u.eip), u.fetchReason b = 0) →
    u.eip.toNat + (11 - rest.length) ≤ u.eipTop →
    step s =
      match exec i { u with
          draws := s.draws + 1
          intr := { u.intr with savedEip := u.eip, savedCs := u.segs.cs }
          pfx := Pfx.clear
          mem := u.mem.touchAll .fetch (span (11 - rest.length) (u.segs.cs.base + u.eip))
          eip := u.eip + BitVec.ofNat 32 (11 - rest.length) } with
      | .next t => .next { t with ctl := { t.ctl with icount := t.ctl.icount + 1 } }
      | .fault f => .fault f
      | .refused r => .refused r

/-- Prefix bytes, however many and in whatever order, and the instruction after them are one step (30_encoding R175, R176,
60_exceptions R681, R684): the prefixes are executed in turn, each of which sets its field of PFX, then the bytes after
them are decoded at the sizes they leave, and the whole is counted once; when the fetch of one of those bytes is refused
and ends the run, EIP is back at the first prefix, the instruction is not executed and nothing is counted. As above, `u`
is the state the code check leaves. -/
def Obligations.StepAppliesPrefixesThenInstruction : Prop :=
  ∀ (s u t : State) (ps : List Instr) (i : Instr) (rest : List Byte),
    s.paged = true → s.ctl.running = true → s.intr.pending = none → s.ctl.halted = false → s.stopBits = 0 →
    s.cfg.maxInsnBytes = none → s.askCheck = (false, u) →
    prefixesRun ps { u with
      draws := s.draws + 1
      intr := { u.intr with savedEip := u.eip, savedCs := u.segs.cs }
      pfx := Pfx.clear } t →
    decode ⟨t.osz, t.asz⟩ ((span 11 (t.segs.cs.base + t.eip)).map t.mem.fetchByte) = .ok (i, rest) →
    let n := ps.length + (11 - rest.length)
    let code := span n (u.segs.cs.base + u.eip)
    (i.isPfx = false → (∀ b ∈ code, u.fetchReason b = 0) → u.eip.toNat + n ≤ u.eipTop →
      step s =
        match exec i { t with mem := u.mem.touchAll .fetch code, eip := u.eip + BitVec.ofNat 32 n } with
        | .next v => .next { v with ctl := { v.ctl with icount := v.ctl.icount + 1 } }
        | .fault f => .fault f
        | .refused r => .refused r) ∧
    (∀ (k : Nat) (b : Word), ps.length ≤ k → code[k]? = some b → u.fetchReason b ≠ 0 →
      (∀ c ∈ code.take k, u.fetchReason c = 0) → u.eip.toNat + k ≤ u.eipTop →
      step s = .next { t with
        mem := u.mem.touchAll .fetch (code.take (k + 1))
        eip := u.eip
        ctl := { u.ctl with halted := true, reason := u.ctl.reason ||| u.fetchReason b } })

/-- Some words of the spec decode to the instructions they stand for (95_test_vectors V4.1 to V4.5; 30_encoding R170 to
R206). -/
def Obligations.SpecWordsDecode : Prop :=
  decode ⟨.s16, .s16⟩ [0xB8, 0x34, 0x12] = .ok (.mov (.rIz .n0 (.w 0x1234)), []) ∧
  decode ⟨.s16, .s16⟩ [0x8B, 0x06, 0x34, 0x12] = .ok (.mov (.rRm .v .n0 (.mem (.abs16 0x1234))), []) ∧
  decode ⟨.s32, .s32⟩ [0x8B, 0x44, 0x24, 0x08] =
    .ok (.mov (.rRm .v .n0 (.mem (.sib .n4 .n4 0 (.d8 0x08)))), []) ∧
  decode ⟨.s32, .s32⟩ [0x8B, 0x04, 0x8B] = .ok (.mov (.rRm .v .n0 (.mem (.sib .n3 .n1 2 .none))), []) ∧
  decode ⟨.s16, .s16⟩ [0xF7, 0x06, 0x00, 0x20, 0x34, 0x12] =
    .ok (.test (.evIz (.mem (.abs16 0x2000)) (.w 0x1234)), []) ∧
  decode ⟨.s16, .s16⟩ [0x9A, 0x00, 0x02, 0x00, 0x30] = .ok (.callFar ⟨.w 0x0200, 0x3000⟩, []) ∧
  decode ⟨.s16, .s16⟩ [0x0F, 0xA4, 0xD8, 0x04] = .ok (.shld (.reg .n0) .n3 (.imm 4), []) ∧
  decode ⟨.s16, .s16⟩ [0x0F, 0x01, 0x16, 0x00, 0x09] = .ok (.lgdt (.abs16 0x0900), []) ∧
  decode ⟨.s16, .s16⟩ [0x0F, 0x22, 0xC0] = .ok (.movToCr .n0 .n0, []) ∧
  decode ⟨.s16, .s16⟩ [0xD6] = .ok (.ud .opD6, [])

/-- Decoding never fails (30_encoding R171, R173): any list of at least eleven bytes begins with exactly one
well-formed instruction or prefix, of one to eleven bytes, and the rest is what follows it. -/
def Obligations.EveryByteSequenceDecodes : Prop :=
  ∀ (m : DecMode) (bs : List Byte), 11 ≤ bs.length →
    ∃ (i : Instr) (used rest : List Byte), decode m bs = .ok (i, rest) ∧ bs = used ++ rest ∧
      1 ≤ used.length ∧ used.length ≤ 11 ∧ i.wf m = true

/-- Decoding the encoding of a well-formed instruction gives it back, whatever bytes follow (30_encoding R183 to
R206). -/
def Obligations.DecodeOfEncodeIsSame : Prop :=
  ∀ (m : DecMode) (i : Instr) (rest : List Byte), i.wf m = true → decode m (encode i ++ rest) = .ok (i, rest)

/-- What reset leaves (10_state R42, R48, R50, R51, R53, R57, R58, R60, R61, R66, R67, R71), whatever the launch
parameters, MEMIO and the initial memory: real mode, EFLAGS 0x00000002, the segment and table registers, nothing pending,
the saved EIP 0 and the saved CS that of reset, PFX clear, no permission, no port access counted, and 0 in every other
row of R71; and the state is in canonical form, so that the invariant of `StepKeepsCanonicalForm` holds there. That
`State.reset` is the launch with the parameters at their defaults, the default memory and nothing listed in it is the
model's choice (log entries 1 and 6). -/
def Obligations.ResetLeaves : Prop :=
  (∀ (c : Launch) (memIo : Option Nat) (initMem : List Host.Cell),
    let s := State.launch c memIo initMem
    s.flags.toWord = 0x00000002 ∧ s.flags.iopl = 0 ∧
    (∀ f ∈ [s.flags.cf, s.flags.pf, s.flags.af, s.flags.zf, s.flags.sf, s.flags.tf, s.flags.ifl, s.flags.df,
      s.flags.ovf, s.flags.nt], f = false) ∧
    s.eip = 0 ∧ s.segs.cs = ⟨0, 0, 0x0000FFFF, 0x09B⟩ ∧
    (∀ g, g ≠ .cs → s.segs.get g = ⟨0, 0, 0x0000FFFF, 0x093⟩) ∧
    s.sys.ldtr = ⟨0, 0, 0x0000FFFF, 0x000⟩ ∧ s.sys.tr = ⟨0, 0, 0x0000FFFF, 0x000⟩ ∧
    s.sys.gdtr = ⟨0, 0xFFFF⟩ ∧ s.sys.idtr = ⟨0, 0xFFFF⟩ ∧
    (∀ i, s.regs.get i = 0 ∧ s.sys.cr.get i = 0 ∧ s.sys.dr.get i = 0) ∧
    (∀ i, Sparse.get 0 s.sys.msr i = 0 ∧ Sparse.get 0 s.sys.msrPerm i = 0) ∧
    s.pe = false ∧ s.intr.pending = none ∧ s.intr.savedEip = 0 ∧ s.intr.savedCs = ⟨0, 0, 0x0000FFFF, 0x09B⟩ ∧
    s.pfx.seg = none ∧ s.pfx.opsz = false ∧ s.pfx.adsz = false ∧ s.pfx.lock = false ∧ s.pfx.rep = none ∧
    s.ctl.halted = false ∧ s.ctl.reason = 0 ∧ s.ctl.icount = 0 ∧
    s.mem.invalid = false ∧ (∀ a : Word, s.mem.attrAt a = 0) ∧ s.mem.data = initMem ∧ s.io = memIo ∧ s.cfg = c ∧
    (∀ p : BitVec 16, s.ports.permAt p = 0 ∧ Sparse.get 0 s.ports.rd p.toNat = 0 ∧
      Sparse.get 0 s.ports.wr p.toNat = 0) ∧
    s.ports.out = [] ∧ (Sparse.wf 0 (2 ^ 32) initMem = true → s.wf = true)) ∧
  State.reset = State.launch Launch.defaults none [] ∧ State.reset.wf = true

/-- Every step keeps the canonical form of memory, attributes, ports and model-specific registers, whatever hooks and
whatever memory the host installed: they stay total functions written in one way, with no address outside their space
(10_state R58, R63, R67). -/
def Obligations.StepKeepsCanonicalForm : Prop :=
  ∀ s t : State, s.wf = true → step s = .next t → t.wf = true

/-- `mem_invalid` is never cleared by an access (20_memory R118): no step clears it; only the host does, between runs or
through what it installs. -/
def Obligations.StepKeepsInvalidFlag : Prop :=
  (∀ s t : State, s.noHooks = true → s.mem.invalid = true → step s = .next t → t.mem.invalid = true) ∧
  ∀ s : State, (s.hostResetAccessStats).mem.invalid = false

/-- No instruction changes a permission nibble except by the VALID side effect of a write, or any port or MSR
permission (20_memory R121; 10_state R58, R64, R67). A host's hook or memory-I/O handler may. That no step changes a
launch parameter (10_state R70), or installs or removes a handler (20_memory R124), whatever hooks are installed, is the
model's choice: it holds them fixed for a run (log entries 7, 8, 9 and 10). -/
def Obligations.StepKeepsPermissions : Prop :=
  (∀ s t : State, s.noHooks = true → s.mem.wf = true → step s = .next t →
    (∀ b : Word, t.mem.perms b = s.mem.perms b ∨
      (s.mem.permitted .write b = true ∧ t.mem.perms b = s.mem.perms b ||| 0x08)) ∧
    t.ports.perm = s.ports.perm ∧ t.sys.msrPerm = s.sys.msrPerm) ∧
  ∀ s t : State, step s = .next t → t.cfg = s.cfg ∧ t.io.isSome = s.io.isSome

/-- What the byte path does to one byte (20_memory R111 to R115, R124): the value returned, the sticky bits, VALID after a
write, the sentinel and `mem_invalid` on a refusal; and, where a memory-I/O handler replaces the paged memory, that every
access of every width is the handler's to answer, and that the core goes on in the state it leaves (60_exceptions R690).
The form of both is the model's choice (log entry 10). -/
def Obligations.ByteAccessEffects : Prop :=
  (∀ (m : Memory) (a : Word) (v : Byte), m.wf = true →
    (m.attrAt a &&& 0x09 = 0x09 → m.val .b8 a = m.dataAt a ∧ m.ok .b8 a = true ∧
      (m.touchRead .b8 a).attrAt a = m.attrAt a ||| 0x10 ∧ (m.touchRead .b8 a).invalid = m.invalid) ∧
    (m.attrAt a &&& 0x09 ≠ 0x09 → m.val .b8 a = 0xFF ∧ m.ok .b8 a = false ∧
      (m.touchRead .b8 a).attrAt a = m.attrAt a ||| 0x80 ∧ (m.touchRead .b8 a).invalid = true) ∧
    (m.attrAt a &&& 0x02 = 0x02 → (m.store .b8 a v).dataAt a = v ∧
      (m.store .b8 a v).attrAt a = m.attrAt a ||| 0x28 ∧ (m.store .b8 a v).invalid = m.invalid) ∧
    (m.attrAt a &&& 0x02 ≠ 0x02 → (m.store .b8 a v).dataAt a = m.dataAt a ∧
      (m.store .b8 a v).attrAt a = m.attrAt a ||| 0x80 ∧ (m.store .b8 a v).invalid = true) ∧
    (m.attrAt a &&& 0x0C = 0x0C → m.fetchByte a = m.dataAt a ∧ m.fetchRefused a = none ∧
      (m.touch .fetch a).attrAt a = m.attrAt a ||| 0x40 ∧ (m.touch .fetch a).invalid = m.invalid) ∧
    (m.attrAt a &&& 0x0C ≠ 0x0C → m.fetchByte a = 0xFF ∧
      m.fetchRefused a = some (decide ((m.attrAt a).getLsbD 2 = false)) ∧
      (m.touch .fetch a).attrAt a = m.attrAt a ||| 0x80 ∧ (m.touch .fetch a).invalid = true) ∧
    (m.touchRead .b8 a).dataAt a = m.dataAt a ∧ (m.touch .fetch a).dataAt a = m.dataAt a) ∧
  (∀ (s : State) (w : Width) (a : Word) (v : BitVec w.bits), s.io = none →
    s.memVal w a = s.mem.val w a ∧ s.memOk w a = s.mem.ok w a ∧
    s.memTouch w a = { s with mem := s.mem.touchRead w a } ∧ s.memStore w a v = { s with mem := s.mem.store w a v } ∧
    s.fetchVal a = s.mem.fetchByte a ∧ s.fetchRefused a = s.mem.fetchRefused a ∧
    s.fetchTouch a = { s with mem := s.mem.touch .fetch a }) ∧
  ∀ (s : State) (n : Nat) (w : Width) (a : Word) (v : BitVec w.bits), s.io = some n →
    let read := Config.memIo .read w a 0 s
    let write := Config.memIo .write w a (v.setWidth 32) s
    let fetch := Config.memIo .fetch .b8 a 0 s
    let left : State → State := fun u => { u with
      cfg := s.cfg
      draws := s.draws
      ctl := { u.ctl with running := s.ctl.running }
      io := some (u.io.getD n) }
    s.memVal w a = read.value.setWidth w.bits ∧ s.memOk w a = !read.error ∧
    s.fetchVal a = (if fetch.error then 0xFF else fetch.value.setWidth 8) ∧
    s.fetchRefused a = (if fetch.error then some fetch.noexec else none) ∧
    (read.state.wf = true → s.memTouch w a = left read.state) ∧
    (write.state.wf = true → s.memStore w a v = left write.state) ∧
    (fetch.state.wf = true → s.fetchTouch a = left fetch.state)

/-- Read after write (20_memory R119): a value written at any address whose bytes have PERM_R and PERM_W, VALID or not,
page boundary or not, is what a read of the same width returns. -/
def Obligations.ReadAfterWrite : Prop :=
  ∀ (m : Memory) (w : Width) (a : Word) (v : BitVec w.bits), m.wf = true →
    (∀ b ∈ span w.bytes a, m.attrAt b &&& 0x03 = 0x03) → (m.store w a v).val w a = v

/-- In real mode no instruction changes the limit or the access rights of a segment register (20_memory R130), unless
code of the host does; in particular the default sizes stay. -/
def Obligations.RealModeStepKeepsLimitsAndRights : Prop :=
  ∀ (s t : State) (g : Seg), s.pe = false → s.noHooks = true →
    step s = .next t →
    (t.segs.get g).limit = (s.segs.get g).limit ∧ (t.segs.get g).acc = (s.segs.get g).acc

/-- CS, and with it the privilege level, is loaded by far JMP, far CALL, RETF and IRET only (60_exceptions R670). Delivery,
which is no instruction, is the other way, and a call/jump hook or a memory handler of the host may do anything. MOV and
POP to CS are terms that no encoding stands for (log entry 18). -/
def Obligations.OnlyFarTransfersLoadCs : Prop :=
  ∀ (i : Instr) (s t : State), s.cfg.callJmpHook = false → s.io = none → exec i s = .next t →
    (∀ rm, i ≠ .movToSeg .cs rm) → i ≠ .popSeg .cs →
    (match i with
      | .jmpFar _ | .jmpFarMem _ | .callFar _ | .callFarMem _ | .retf | .retfImm _ | .iret | .iretd => False
      | _ => True) → t.segs.cs = s.segs.cs

/-- Outside level 0 no instruction changes a system register or halts the core (45_system R580, 60_exceptions R671), but
through a call/jump hook or a memory handler of the host. -/
def Obligations.UserModeKeepsSystemRegisters : Prop :=
  ∀ (i : Instr) (s t : State), s.cfg.callJmpHook = false → s.io = none → s.pe = true → s.cpl ≠ 0 →
    exec i s = .next t → t.sys = s.sys ∧ t.ctl = s.ctl

/-- Faults are precise (60_exceptions R650, R666; 00_scope R15): an instruction that leaves a fault pending has changed
no register, flag, system register, port or memory byte, and no permission; EIP is where the decoder left it. (What a
call/jump hook does is the host's.) -/
def Obligations.EveryFaultIsPrecise : Prop :=
  ∀ (i : Instr) (s t : State) (p : Pending), s.paged = true → s.cfg.callJmpHook = false → s.intr.pending = none →
    exec i s = .next t → t.intr.pending = some p → p.kind = .fault → s.raised t p

/-- What ends a run (60_exceptions R681, R682, R684, R685, R688, R690, R692). The halted core's next step ends it with
everything else as it was. A limit, the timeout or a tight loop ends it before the instruction is fetched, with those
reason bits. Else the code check, where one is installed, says whether it ends: then the state is what the check left, with
its reason bit. A refused fetch whose run flag is active halts the core with its reason, EIP at the start of the
instruction, nothing executed and nothing counted. Model's choices: a step from the termination checks on draws once
(`draws + 1`, log entry 2); without a run there is no step but the fault `runEnded` (log entry 5); the timeout is the free
value `Config.timeoutExpired` of the draw, and what a code check leaves is `resume` of its state, which keeps launch
parameters, draws, running bit and handler (log entry 7). -/
def Obligations.WhatEndsARun : Prop :=
  ∀ s : State,
    (s.ctl.running = true → s.intr.pending = none → s.ctl.halted = true →
      step s = .next { s with ctl := { s.ctl with running := false } }) ∧
    (s.ctl.running = true → s.intr.pending = none → s.ctl.halted = false → s.stopBits ≠ 0 →
      step s = .next { s with
        draws := s.draws + 1
        ctl := { s.ctl with reason := s.stopBits, running := false } }) ∧
    (let timeout := s.cfg.runFlags.getLsbD 0 && Config.timeoutExpired s.draws
     let count := s.cfg.runFlags.getLsbD 1 && decide (s.cfg.maxInstr ≤ s.ctl.icount)
     let tight := s.cfg.runFlags.getLsbD 3 && s.cfg.tightLoop && Config.tightLoop s
     ∀ k, k < 8 → s.stopBits.getLsbD k = (s.ctl.reason.getLsbD k ||
       (match k with
        | 0 => timeout
        | 1 => count
        | 3 => tight
        | _ => false))) ∧
    (s.cfg.codeCheck = false → s.askCheck = (false, s)) ∧
    (s.cfg.codeCheck = true →
      let r := Config.codeCheck s
      let u := s.resume r.2
      s.askCheck = (r.1, u) ∧
      (s.ctl.running = true → s.intr.pending = none → s.ctl.halted = false → s.stopBits = 0 → r.1 = true →
        step s = .next { u with
          draws := s.draws + 1
          ctl := { u.ctl with reason := u.ctl.reason ||| 0x40, running := false } })) ∧
    (∀ (u : State) (i : Instr) (rest : List Byte) (k : Nat) (b : Word),
      s.paged = true → s.ctl.running = true → s.intr.pending = none → s.ctl.halted = false → s.stopBits = 0 →
      s.cfg.maxInsnBytes = none → s.askCheck = (false, u) →
      decode ⟨u.defSz, u.defSz⟩ ((span 11 (u.segs.cs.base + u.eip)).map u.mem.fetchByte) = .ok (i, rest) →
      let code := span (11 - rest.length) (u.segs.cs.base + u.eip)
      code[k]? = some b → u.fetchReason b ≠ 0 → (∀ c ∈ code.take k, u.fetchReason c = 0) →
      u.eip.toNat + k ≤ u.eipTop →
      step s = .next { u with
        draws := s.draws + 1
        intr := { u.intr with savedEip := u.eip, savedCs := u.segs.cs }
        pfx := Pfx.clear
        mem := u.mem.touchAll .fetch (code.take (k + 1))
        ctl := { u.ctl with halted := true, reason := u.ctl.reason ||| u.fetchReason b } }) ∧
    (s.ctl.running = false → step s = .fault (.runEnded s.ctl.reason))

/-- The regression property of 60_exceptions R652: from an empty slot, Raise(3, software) then Raise(6, fault) leaves
vector 3 pending and the second call changes nothing. -/
def Obligations.FirstRaiseWins : Prop :=
  ∀ s : State, s.intr.pending = none →
    ((s.hostRaise 3 .software none).hostRaise 6 .fault none).intr.pending = some ⟨3, .software, false, false, 0⟩ ∧
    (s.hostRaise 3 .software none).hostRaise 6 .fault none = s.hostRaise 3 .software none

/-- Delivery in real mode without an interrupt hook (60_exceptions R660 to R662, R664): with the vector's entry readable,
EFLAGS, CS, the return offset and an error code are pushed at the stack's width, IF and TF are cleared, CS and EIP are
those of the entry, the slot is empty, and the step goes on from there. -/
def Obligations.RealModeDelivery : Prop :=
  ∀ (s : State) (p : Pending) (o0 o1 s0 s1 : Byte), s.paged = true → s.pe = false → s.intr.pending = some p →
    s.cfg.intrHook = false →
    s.mem.holds (s.sys.idtr.base + BitVec.ofNat 32 (4 * p.vector.toNat)) [o0, o1, s0, s1] →
    let rcs := if p.restart then s.intr.savedCs.sel else s.segs.cs.sel
    let rip := if p.restart then s.intr.savedEip else s.eip
    let w := s.segs.ss.size.width
    let t := s.deliver
    t.intr = { s.intr with pending := none } ∧ t.flags = { s.flags with ifl := false, tf := false } ∧
    t.segs = s.segs.set .cs (s.segs.cs.inReal (s1 ++ s0)) ∧ t.eip = (o1 ++ o0).setWidth 32 ∧
    (∃ m, s.mem.kept m ∧
      pushSeq s.segs.ss w
        ([s.flags.toWord.setWidth w.bits, rcs.setWidth w.bits, rip.setWidth w.bits] ++
          (if p.hasErr then [p.err.setWidth w.bits] else [])) s.regs m t.regs t.mem) ∧
    t.sys = s.sys ∧ t.pfx = s.pfx ∧ t.ctl = s.ctl ∧ t.ports = s.ports ∧ t.cfg = s.cfg ∧
    (s.ctl.running = true → step s = step t)

/-- Delivery without an interrupt hook fails (60_exceptions R662, R663, R665) on an unreadable vector, a gate outside the
IDT, one that is not readable, or one that is not a present interrupt gate: halted with DELIVERY_FAIL, the interrupt kept,
everything else unchanged; and the step ends the run. -/
def Obligations.DeliveryFailureHalts : Prop :=
  ∀ (s : State) (p : Pending), s.paged = true → s.intr.pending = some p → s.cfg.intrHook = false →
    ((s.pe = false ∧ ∃ b ∈ span 4 (s.sys.idtr.base + BitVec.ofNat 32 (4 * p.vector.toNat)),
        s.mem.permitted .read b = false) ∨
      (s.pe = true ∧ s.sys.idtr.limit.toNat < 8 * p.vector.toNat + 7) ∨
      (s.pe = true ∧ ∃ b ∈ span 8 (s.sys.idtr.base + BitVec.ofNat 32 (8 * p.vector.toNat)),
        s.mem.permitted .read b = false) ∨
      (s.pe = true ∧ 8 * p.vector.toNat + 7 ≤ s.sys.idtr.limit.toNat ∧ ∃ b0 b1 b2 b3 b4 b5 b6 b7 : Byte,
        s.mem.holds (s.sys.idtr.base + BitVec.ofNat 32 (8 * p.vector.toNat)) [b0, b1, b2, b3, b4, b5, b6, b7] ∧
        (b5.getLsbD 7 = false ∨ b5.getLsbD 4 = true ∨ (b5.toNat % 16 ≠ 0x6 ∧ b5.toNat % 16 ≠ 0xE)))) →
    let t := s.deliver
    t.intr = s.intr ∧ t.ctl = { s.ctl with halted := true, reason := s.ctl.reason ||| 0x80 } ∧
    t.regs = s.regs ∧ t.eip = s.eip ∧ t.flags = s.flags ∧ t.segs = s.segs ∧ t.sys = s.sys ∧ t.ports = s.ports ∧
    t.pfx = s.pfx ∧ t.cfg = s.cfg ∧ s.mem.kept t.mem ∧
    (s.ctl.running = true →
      step s = .next { t with ctl := { t.ctl with running := false } })

/-- Delivery through a present interrupt gate in protected mode without an interrupt hook (60_exceptions R660, R661, R663
to R665; 20_memory R131 to R135): EFLAGS, CS, the return offset and an error code are pushed at the stack's width and IF
and TF are cleared; then the descriptor of the gate's selector, as the memory is after the pushes, decides: CS is loaded
with it, EIP is the gate's offset, of 16 or 32 bits by its type, the slot is empty and the step goes on from there; or
the core is halted with DELIVERY_FAIL, the interrupt kept, CS and EIP as they were, and the step ends the run. -/
def Obligations.GateDelivery : Prop :=
  ∀ (s : State) (p : Pending) (b0 b1 b2 b3 b4 b5 b6 b7 : Byte), s.paged = true → s.pe = true →
    s.intr.pending = some p → s.cfg.intrHook = false → 8 * p.vector.toNat + 7 ≤ s.sys.idtr.limit.toNat →
    s.mem.holds (s.sys.idtr.base + BitVec.ofNat 32 (8 * p.vector.toNat)) [b0, b1, b2, b3, b4, b5, b6, b7] →
    b5.getLsbD 7 = true → b5.getLsbD 4 = false → (b5.toNat % 16 = 0x6 ∨ b5.toNat % 16 = 0xE) →
    let rcs := if p.restart then s.intr.savedCs.sel else s.segs.cs.sel
    let rip := if p.restart then s.intr.savedEip else s.eip
    let w := s.segs.ss.size.width
    let t := s.deliver
    t.flags = { s.flags with ifl := false, tf := false } ∧
    t.sys = s.sys ∧ t.pfx = s.pfx ∧ t.ports = s.ports ∧ t.cfg = s.cfg ∧
    ∃ m m', s.mem.kept m ∧ m'.kept t.mem ∧
      pushSeq s.segs.ss w
        ([s.flags.toWord.setWidth w.bits, rcs.setWidth w.bits, rip.setWidth w.bits] ++
          (if p.hasErr then [p.err.setWidth w.bits] else [])) s.regs m t.regs m' ∧
      match { s with mem := m' }.segOutcome s.segs.cs (b3 ++ b2) with
      | some v =>
        t.intr = { s.intr with pending := none } ∧ t.segs = s.segs.set .cs v ∧
        t.eip = (if b5.toNat % 16 = 0xE then b7 ++ b6 ++ b1 ++ b0 else (b1 ++ b0).setWidth 32) ∧ t.ctl = s.ctl ∧
        (s.ctl.running = true → step s = step t)
      | none =>
        t.intr = s.intr ∧ t.segs = s.segs ∧ t.eip = s.eip ∧
        t.ctl = { s.ctl with halted := true, reason := s.ctl.reason ||| 0x80 } ∧
        (s.ctl.running = true →
          step s = .next { t with ctl := { t.ctl with running := false } })

/-- Delivery with an interrupt hook installed (60_exceptions R660, R690, R691): the hook is called with the slot empty, and
the core resumes in the state `u` it left. Where it reports that it handled the interrupt, CS and EIP become the return
address, unless it set them itself; nothing is pushed, no flag cleared, no lookup made, and the step goes on from there.
Where it reports that it did not, the default delivery goes on in `u`, with the return address of before the call; that
is delivery as of a core without a hook where the hook left that address as it was and the memory is the default one.
What the hook answers and leaves is free (log entry 8). -/
def Obligations.HookedDelivery : Prop :=
  ∀ (s : State) (p : Pending), s.intr.pending = some p → s.cfg.intrHook = true →
    let asked := { s with intr := { s.intr with pending := none } }
    let r := Config.intrHook p.vector p.kind asked
    let u := asked.resume r.state
    let address := if p.restart then (s.intr.savedCs.sel, s.intr.savedEip) else (s.segs.cs.sel, s.eip)
    (r.handled = true → r.moved = true → s.deliver = u) ∧
    (r.handled = true → r.moved = false → s.deliver = { u with
      segs := if p.restart then u.segs.set .cs s.intr.savedCs else u.segs
      eip := if p.restart then s.intr.savedEip else s.eip }) ∧
    (r.handled = true → s.deliver.intr.pending = none → s.ctl.running = true →
      step s = step s.deliver) ∧
    (r.handled = false → s.deliver = u.vectorTo p address) ∧
    (s.io = none → r.handled = false →
      (if p.restart then (u.intr.savedCs.sel, u.intr.savedEip) else (u.segs.cs.sel, u.eip)) = address →
      u.intr.pending = none →
      s.deliver = { { u with
        intr := { u.intr with pending := some p }
        cfg := { u.cfg with intrHook := false } }.deliver with cfg := s.cfg })

/-- IRET undoes delivery (60_exceptions R664, R668; 43_control_transfer R494): in real mode, on a stack that can be read
and written, IRET at the width delivery pushed with, after the handler has discarded an error code, restores the general
registers and EFLAGS and goes to the return address. -/
def Obligations.IretUndoesDelivery : Prop :=
  ∀ (s : State) (p : Pending), s.paged = true → s.pe = false → s.cfg.intrHook = false →
    s.intr.pending = some p →
    (∀ b ∈ span 4 (s.sys.idtr.base + BitVec.ofNat 32 (4 * p.vector.toNat)), s.mem.permitted .read b = true) →
    (∀ k ∈ [1, 2, 3], ∀ b ∈ span s.segs.ss.size.width.bytes
        (s.segs.ss.base + s.segs.ss.size.trunc (s.regs.r4 - BitVec.ofNat 32 (k * s.segs.ss.size.width.bytes))),
      s.mem.attrAt b &&& 0x03 = 0x03) →
    let rip := if p.restart then s.intr.savedEip else s.eip
    let t := s.deliver
    (s.segs.ss.size = .s16 → rip.toNat < 65536) →
    completes (match s.segs.ss.size with | .s16 => .iret | .s32 => .iretd)
      { t with regs := if p.hasErr then t.released s.segs.ss.size.width.bytes else t.regs } fun u =>
        u.regs = s.regs ∧ u.flags = s.flags ∧ u.eip = rip ∧
        u.segs.cs.sel = (if p.restart then s.intr.savedCs.sel else s.segs.cs.sel) ∧
        u.segs.cs.base.toNat = 16 * u.segs.cs.sel.toNat

/-! ## Registers and addresses -/

/-- The aliasing law (10_state R31 to R34): a write through an 8-bit, 16-bit or 32-bit name changes exactly the named
bits of its cell, and no bit of another cell, and a read through a name returns those bits of its cell, so that every
name reads the bits last written through any name. -/
def Obligations.RegisterAliases : Prop :=
  ∀ (b : Bank) (w : Width) (i j : Num8) (v : BitVec w.bits) (k : Nat), k < 32 →
    let cell := match w with | .b8 => Num8.ofBits (i.bits &&& 3) | .b16 => i | .b32 => i
    let low := match w with | .b8 => (if i.bits.getLsbD 2 then 8 else 0) | .b16 => 0 | .b32 => 0
    ((b.setRn w i v).get j).getLsbD k =
      (if j = cell ∧ low ≤ k ∧ k < low + w.bits then v.getLsbD (k - low) else (b.get j).getLsbD k) ∧
    (b.rn w i).getLsbD k = (decide (k < w.bits) && (b.get cell).getLsbD (low + k))

/-- Effective addresses and default segments of the two address-mode tables, the displacement-only rows among them, and
the offset of a moffs operand (30_encoding R187 to R191, R195; 20_memory R104). -/
def Obligations.EffectiveAddresses : Prop :=
  ∀ (s : State) (rm r i : Num8) (ss : BitVec 2) (d16 : Disp16) (d32 : Disp32) (v16 : BitVec 16) (v : Word)
    (o : Moffs),
    let disp16 : Int := match d16 with | .none => 0 | .d8 x => x.toInt | .d16 x => x.toInt
    let disp32 : Int := match d32 with | .none => 0 | .d8 x => x.toInt | .d32 x => x.toInt
    let r16 : Num8 → Int := fun k => (s.regs.r16 k).toNat
    let sum16 : Int := match rm with
      | .n0 => r16 .n3 + r16 .n6 | .n1 => r16 .n3 + r16 .n7 | .n2 => r16 .n5 + r16 .n6 | .n3 => r16 .n5 + r16 .n7
      | .n4 => r16 .n6 | .n5 => r16 .n7 | .n6 => r16 .n5 | .n7 => r16 .n3
    let index : Int := if i = .n4 then 0 else (s.regs.get i).toNat * 2 ^ ss.toNat
    let segOr : Seg → Seg := fun g => match s.pfx.seg with | some o => o | none => g
    ((s.eaOff (.m16 rm d16)).toNat : Int) = (sum16 + disp16) % 65536 ∧
    ((s.eaOff (.m32 r d32)).toNat : Int) = ((s.regs.get r).toNat + disp32) % 2 ^ 32 ∧
    ((s.eaOff (.sib r i ss d32)).toNat : Int) = ((s.regs.get r).toNat + index + disp32) % 2 ^ 32 ∧
    ((s.eaOff (.sibAbs i ss v)).toNat : Int) = (index + v.toInt) % 2 ^ 32 ∧
    s.eaSeg (.m16 rm d16) = segOr (if rm ∈ [.n2, .n3, .n6] then .ss else .ds) ∧
    s.eaSeg (.m32 r d32) = segOr (if r = .n5 then .ss else .ds) ∧
    s.eaSeg (.sib r i ss d32) =
      segOr (if r = .n4 ∨ r = .n5 ∨ (s.cfg.ssDefaultOnIndexEbp = true ∧ i = .n5) then .ss else .ds) ∧
    s.eaSeg (.sibAbs i ss v) = segOr (if s.cfg.ssDefaultOnIndexEbp = true ∧ i = .n5 then .ss else .ds) ∧
    (s.eaOff (.abs16 v16)).toNat = v16.toNat ∧ s.eaOff (.abs32 v) = v ∧
    s.eaSeg (.abs16 v16) = segOr .ds ∧ s.eaSeg (.abs32 v) = segOr .ds ∧
    (moffsVal o).toNat = (match o with | .o16 x => x.toNat | .o32 x => x.toNat)

/-! ## Prefixes -/

/-- A prefix byte writes its field of PFX and nothing else; a flag is set, not toggled, and the last segment override
and the last repeat prefix win (30_encoding R174 to R176; 20_memory R143 for LOCK). -/
def Obligations.PrefixWritesPfxOnly : Prop :=
  ∀ s : State,
    (∀ c ∈ [(Instr.pfxEs, Seg.es), (.pfxCs, .cs), (.pfxSs, .ss), (.pfxDs, .ds), (.pfxFs, .fs), (.pfxGs, .gs)],
      completes c.1 s fun t => t = { s with pfx := { s.pfx with seg := some c.2 } }) ∧
    (completes .pfxOpSize s fun t => t = { s with pfx := { s.pfx with opsz := true } }) ∧
    (completes .pfxAdSize s fun t => t = { s with pfx := { s.pfx with adsz := true } }) ∧
    (completes .pfxLock s fun t => t = { s with pfx := { s.pfx with lock := true } }) ∧
    (completes .pfxRepne s fun t => t = { s with pfx := { s.pfx with rep := some .repne } }) ∧
    (completes .pfxRep s fun t => t = { s with pfx := { s.pfx with rep := some .rep } })

/-! ## Arithmetic and logic -/

/-- ADD and ADC: result and six flags by the truth table, the destination written, all else unchanged
(40_alu_primitives R253, R254; 42_arithmetic_logic R400). -/
def Obligations.AdditionFollowsTruthTable : Prop :=
  ∀ (f : AluForm) (s : State), s.paged = true →
    let w := aluWidth s.osz f
    let d := s.rmVal w (aluDst f)
    let v := s.aluSrc w f
    (completes (.add f) s fun t => ∃ r, s.sameButData t ∧ s.wrote t w (s.place (aluDst f)) r ∧
      addTable d v false r s.flags t.flags) ∧
    (completes (.adc f) s fun t => ∃ r, s.sameButData t ∧ s.wrote t w (s.place (aluDst f)) r ∧
      addTable d v s.flags.cf r s.flags t.flags)

/-- SUB, SBB and CMP: result and six flags by the truth table; CMP writes no operand (40_alu_primitives R256 to R258;
42_arithmetic_logic R400). -/
def Obligations.SubtractionFollowsTruthTable : Prop :=
  ∀ (f : AluForm) (s : State), s.paged = true →
    let w := aluWidth s.osz f
    let d := s.rmVal w (aluDst f)
    let v := s.aluSrc w f
    (completes (.sub f) s fun t => ∃ r, s.sameButData t ∧ s.wrote t w (s.place (aluDst f)) r ∧
      subTable d v false r s.flags t.flags) ∧
    (completes (.sbb f) s fun t => ∃ r, s.sameButData t ∧ s.wrote t w (s.place (aluDst f)) r ∧
      subTable d v s.flags.cf r s.flags t.flags) ∧
    (completes (.cmp f) s fun t => ∃ r, s.sameButData t ∧ t.regs = s.regs ∧ s.mem.kept t.mem ∧
      subTable d v false r s.flags t.flags)

/-- AND, OR, XOR and TEST bit by bit, with CF and OF cleared, ZF SF PF of the result and AF free; TEST writes no operand
(40_alu_primitives R263, R264; 42_arithmetic_logic R400, R409). -/
def Obligations.LogicResults : Prop :=
  ∀ (f : AluForm) (g : TestForm) (s : State), s.paged = true →
    let w := aluWidth s.osz f
    let d := s.rmVal w (aluDst f)
    let v := s.aluSrc w f
    (completes (.and f) s fun t => ∃ r, s.sameButData t ∧ s.wrote t w (s.place (aluDst f)) r ∧
      (∀ k, r.getLsbD k = (d.getLsbD k && v.getLsbD k)) ∧ logicTable r s.flags t.flags) ∧
    (completes (.or f) s fun t => ∃ r, s.sameButData t ∧ s.wrote t w (s.place (aluDst f)) r ∧
      (∀ k, r.getLsbD k = (d.getLsbD k || v.getLsbD k)) ∧ logicTable r s.flags t.flags) ∧
    (completes (.xor f) s fun t => ∃ r, s.sameButData t ∧ s.wrote t w (s.place (aluDst f)) r ∧
      (∀ k, r.getLsbD k = (d.getLsbD k != v.getLsbD k)) ∧ logicTable r s.flags t.flags) ∧
    (completes (.test g) s fun t => ∃ r : BitVec (testWidth s.osz g).bits, s.sameButData t ∧ t.regs = s.regs ∧
      s.mem.kept t.mem ∧
      (∀ k, r.getLsbD k =
        ((s.rmVal (testWidth s.osz g) (testRm g)).getLsbD k && (s.testSrc (testWidth s.osz g) g).getLsbD k)) ∧
      logicTable r s.flags t.flags)

/-- INC and DEC keep CF and otherwise follow the tables of adding and subtracting 1; NEG is 0 minus the operand; NOT
complements and writes no flag (40_alu_primitives R255, R259, R260, R265; 42_arithmetic_logic R410 to R413). -/
def Obligations.UnaryResults : Prop :=
  ∀ (f : IncForm) (w : OpW) (rm : RM) (s : State), s.paged = true →
    let n := incWidth s.osz f
    let d := s.rmVal n (incRm f)
    let k := w.width s.osz
    let x := s.rmVal k rm
    (completes (.inc f) s fun t => ∃ r g, s.sameButData t ∧ s.wrote t n (s.place (incRm f)) r ∧
      addTable d (BitVec.ofNat n.bits 1) false r s.flags g ∧ t.flags = { g with cf := s.flags.cf }) ∧
    (completes (.dec f) s fun t => ∃ r g, s.sameButData t ∧ s.wrote t n (s.place (incRm f)) r ∧
      subTable d (BitVec.ofNat n.bits 1) false r s.flags g ∧ t.flags = { g with cf := s.flags.cf }) ∧
    (completes (.neg w rm) s fun t => ∃ r, s.sameButData t ∧ s.wrote t k (s.place rm) r ∧
      subTable 0 x false r s.flags t.flags ∧ t.flags.cf = decide (x ≠ 0) ∧
      t.flags.ovf = decide (x.toNat = 2 ^ (k.bits - 1)) ∧ t.flags.af = decide (x.toNat % 16 ≠ 0)) ∧
    (completes (.not w rm) s fun t => ∃ r, s.sameButData t ∧ t.flags = s.flags ∧ s.wrote t k (s.place rm) r ∧
      ∀ j, j < k.bits → r.getLsbD j = !x.getLsbD j)

/-- The multiplies: MUL and one-operand IMUL give the exact product in the register pair, the truncating IMULs its low
half; CF and OF say that the product does not fit; SF ZF AF PF are free (40_alu_primitives R285 to R287;
42_arithmetic_logic R414 to R417). -/
def Obligations.MultiplyGivesProduct : Prop :=
  ∀ (w : OpW) (rm : RM) (r : Num8) (imm : ImulImm) (s : State), s.paged = true →
    let n := w.width s.osz
    let o := s.osz.width
    let high : Num8 := match n with | .b8 => .n4 | .b16 => .n2 | .b32 => .n2
    let a := s.regs.rn n .n0
    let x := s.rmVal n rm
    let b : BitVec o.bits := match imm with | .iz z => izVal o z | .ib v => v.signExtend o.bits
    let p2 : Int := (s.regs.rn o r).toInt * (s.rmVal o rm).toInt
    let p3 : Int := (s.rmVal o rm).toInt * b.toInt
    (completes (.mul w rm) s fun t => ∃ hi lo : BitVec n.bits, s.sameButData t ∧ s.mem.kept t.mem ∧
      t.regs = (s.regs.setRn n high hi).setRn n .n0 lo ∧ hi.toNat * 2 ^ n.bits + lo.toNat = a.toNat * x.toNat ∧
      t.flags.cf = decide (hi.toNat ≠ 0) ∧ t.flags.ovf = t.flags.cf ∧ s.flags.sameControl t.flags) ∧
    (completes (.imul w rm) s fun t => ∃ hi lo : BitVec n.bits, s.sameButData t ∧ s.mem.kept t.mem ∧
      t.regs = (s.regs.setRn n high hi).setRn n .n0 lo ∧ (hi ++ lo).toInt = a.toInt * x.toInt ∧
      t.flags.cf = !fitsSigned n.bits (a.toInt * x.toInt) ∧ t.flags.ovf = t.flags.cf ∧
      s.flags.sameControl t.flags) ∧
    (completes (.imul2 r rm) s fun t => ∃ v, s.sameButData t ∧ s.mem.kept t.mem ∧ t.regs = s.regs.setRn o r v ∧
      (v.toInt - p2) % 2 ^ o.bits = 0 ∧ t.flags.cf = !fitsSigned o.bits p2 ∧ t.flags.ovf = t.flags.cf ∧
      s.flags.sameControl t.flags) ∧
    (completes (.imul3 r rm imm) s fun t => ∃ v, s.sameButData t ∧ s.mem.kept t.mem ∧
      t.regs = s.regs.setRn o r v ∧ (v.toInt - p3) % 2 ^ o.bits = 0 ∧ t.flags.cf = !fitsSigned o.bits p3 ∧
      t.flags.ovf = t.flags.cf ∧ s.flags.sameControl t.flags)

/-- DIV and IDIV: with a divisor that is not 0 and a quotient that fits, quotient and remainder satisfy D = q*s + r, the
remainder smaller than the divisor and of D's sign, and the status flags are free; otherwise #DE is raised and nothing
is written (40_alu_primitives R288, R289). -/
def Obligations.DivisionResults : Prop :=
  ∀ (w : OpW) (rm : RM) (s : State), s.paged = true →
    let n := w.width s.osz
    let high : Num8 := match n with | .b8 => .n4 | .b16 => .n2 | .b32 => .n2
    let dd := s.regs.rn n high ++ s.regs.rn n .n0
    let x := s.rmVal n rm
    (x.toNat ≠ 0 → dd.toNat / x.toNat < 2 ^ n.bits →
      completes (.div w rm) s fun t => ∃ q r : BitVec n.bits, s.sameButData t ∧ s.mem.kept t.mem ∧
        t.regs = (s.regs.setRn n high r).setRn n .n0 q ∧ dd.toNat = q.toNat * x.toNat + r.toNat ∧
        r.toNat < x.toNat ∧ s.flags.sameControl t.flags) ∧
    (x.toNat = 0 ∨ 2 ^ n.bits ≤ dd.toNat / x.toNat →
      completes (.div w rm) s fun t => s.raised t ⟨0, .fault, false, true, 0⟩) ∧
    (x.toInt ≠ 0 → fitsSigned n.bits (dd.toInt.tdiv x.toInt) = true →
      completes (.idiv w rm) s fun t => ∃ q r : BitVec n.bits, s.sameButData t ∧ s.mem.kept t.mem ∧
        t.regs = (s.regs.setRn n high r).setRn n .n0 q ∧ dd.toInt = q.toInt * x.toInt + r.toInt ∧
        r.toInt.natAbs < x.toInt.natAbs ∧ (r.toInt = 0 ∨ (r.toInt < 0 ↔ dd.toInt < 0)) ∧
        s.flags.sameControl t.flags) ∧
    (x.toInt = 0 ∨ fitsSigned n.bits (dd.toInt.tdiv x.toInt) = false →
      completes (.idiv w rm) s fun t => s.raised t ⟨0, .fault, false, true, 0⟩)

/-! ## Shifts, rotates and bits -/

/-- SHL, SHR and SAR by the count's low five bits, as arithmetic: times and divided by powers of two, with the zero and
saturation results beyond the width; a count of 0 writes back the value and no flag; OF for a count of 1, else free, AF
free (40_alu_primitives R270 to R273; 42_arithmetic_logic R420). -/
def Obligations.ShiftResults : Prop :=
  ∀ (w : OpW) (rm : RM) (c : ShCount) (s : State), s.paged = true →
    let n := w.width s.osz
    let d := s.rmVal n rm
    let k := (match c with | .imm v => v.toNat | .one => 1 | .cl => (s.regs.r8 .n1).toNat) % 32
    (completes (.shl w rm c) s fun t => ∃ r, s.sameButData t ∧ s.wrote t n (s.place rm) r ∧
      r.toNat = d.toNat * 2 ^ k % 2 ^ n.bits ∧ (k = 0 → t.flags = s.flags) ∧
      (k ≠ 0 → t.flags.ofResult r ∧ s.flags.sameControl t.flags ∧
        t.flags.cf = (decide (k ≤ n.bits) && d.getLsbD (n.bits - k)) ∧
        (k = 1 → t.flags.ovf = (r.getLsbD (n.bits - 1) != t.flags.cf)))) ∧
    (completes (.shr w rm c) s fun t => ∃ r, s.sameButData t ∧ s.wrote t n (s.place rm) r ∧
      r.toNat = d.toNat / 2 ^ k ∧ (k = 0 → t.flags = s.flags) ∧
      (k ≠ 0 → t.flags.ofResult r ∧ s.flags.sameControl t.flags ∧ t.flags.cf = d.getLsbD (k - 1) ∧
        (k = 1 → t.flags.ovf = d.getLsbD (n.bits - 1)))) ∧
    (completes (.sar w rm c) s fun t => ∃ r, s.sameButData t ∧ s.wrote t n (s.place rm) r ∧
      r.toInt = d.toInt / 2 ^ k ∧ (k = 0 → t.flags = s.flags) ∧
      (k ≠ 0 → t.flags.ofResult r ∧ s.flags.sameControl t.flags ∧
        t.flags.cf = decide (d.toInt / 2 ^ (k - 1) % 2 = 1) ∧ (k = 1 → t.flags.ovf = false)))

/-- ROL, ROR, RCL and RCR move every bit by the count modulo the width (or the width plus one through CF); only CF and OF
are written, OF for a normalised count of 1 and else free; a full turn writes no flag, or CF under
ROT_FULL_UPDATES_CF (40_alu_primitives R270, R274 to R277; 42_arithmetic_logic R420). -/
def Obligations.RotateResults : Prop :=
  ∀ (w : OpW) (rm : RM) (c : ShCount) (s : State), s.paged = true →
    let n := w.width s.osz
    let d := s.rmVal n rm
    let k := (match c with | .imm v => v.toNat | .one => 1 | .cl => (s.regs.r8 .n1).toNat) % 32
    let m := k % n.bits
    let mc := k % (n.bits + 1)
    let turn := { s.flags with cf := if k ≠ 0 ∧ s.cfg.rotFullUpdatesCf = true then d.getLsbD 0 else s.flags.cf }
    let turnR :=
      { s.flags with cf := if k ≠ 0 ∧ s.cfg.rotFullUpdatesCf = true then d.getLsbD (n.bits - 1) else s.flags.cf }
    (completes (.rol w rm c) s fun t => ∃ r, s.sameButData t ∧ s.wrote t n (s.place rm) r ∧
      (∀ i, i < n.bits → r.getLsbD ((i + m) % n.bits) = d.getLsbD i) ∧ (m = 0 → t.flags = turn) ∧
      (m ≠ 0 → t.flags = { s.flags with cf := r.getLsbD 0, ovf := t.flags.ovf }) ∧
      (m = 1 → t.flags.ovf = (r.getLsbD (n.bits - 1) != r.getLsbD 0))) ∧
    (completes (.ror w rm c) s fun t => ∃ r, s.sameButData t ∧ s.wrote t n (s.place rm) r ∧
      (∀ i, i < n.bits → r.getLsbD i = d.getLsbD ((i + m) % n.bits)) ∧ (m = 0 → t.flags = turnR) ∧
      (m ≠ 0 → t.flags = { s.flags with cf := r.getLsbD (n.bits - 1), ovf := t.flags.ovf }) ∧
      (m = 1 → t.flags.ovf = (r.getLsbD (n.bits - 1) != r.getLsbD (n.bits - 2)))) ∧
    (completes (.rcl w rm c) s fun t => ∃ r, s.sameButData t ∧ s.wrote t n (s.place rm) r ∧
      (∀ i, i < n.bits + 1 →
        (BitVec.cons t.flags.cf r).getLsbD ((i + mc) % (n.bits + 1)) = (BitVec.cons s.flags.cf d).getLsbD i) ∧
      (mc = 0 → t.flags = s.flags) ∧
      t.flags = { s.flags with cf := t.flags.cf, ovf := t.flags.ovf } ∧
      (mc = 1 → t.flags.ovf = (r.getLsbD (n.bits - 1) != t.flags.cf))) ∧
    (completes (.rcr w rm c) s fun t => ∃ r, s.sameButData t ∧ s.wrote t n (s.place rm) r ∧
      (∀ i, i < n.bits + 1 →
        (BitVec.cons t.flags.cf r).getLsbD i = (BitVec.cons s.flags.cf d).getLsbD ((i + mc) % (n.bits + 1))) ∧
      (mc = 0 → t.flags = s.flags) ∧
      t.flags = { s.flags with cf := t.flags.cf, ovf := t.flags.ovf } ∧
      (mc = 1 → t.flags.ovf = (r.getLsbD (n.bits - 1) != r.getLsbD (n.bits - 2))))

/-- SHLD and SHRD shift the operand through the other register; beyond the width the result is 0
(40_alu_primitives R270, R278, R279; 42_arithmetic_logic R428, R429). -/
def Obligations.DoubleShiftResults : Prop :=
  ∀ (rm : RM) (x : Num8) (c : DShCount) (s : State), s.paged = true →
    let n := s.osz.width
    let d := s.rmVal n rm
    let v := s.regs.rn n x
    let k := (match c with | .imm v => v.toNat | .cl => (s.regs.r8 .n1).toNat) % 32
    (completes (.shld rm x c) s fun t => ∃ r, s.sameButData t ∧ s.wrote t n (s.place rm) r ∧
      (k < n.bits → r.toNat = (d.toNat * 2 ^ n.bits + v.toNat) * 2 ^ k / 2 ^ n.bits % 2 ^ n.bits) ∧
      (n.bits ≤ k → r.toNat = 0) ∧ (k = 0 → t.flags = s.flags) ∧
      (k ≠ 0 → t.flags.ofResult r ∧ s.flags.sameControl t.flags ∧
        t.flags.cf = (decide (k ≤ n.bits) && d.getLsbD (n.bits - k)) ∧
        (k = 1 → t.flags.ovf = (r.getLsbD (n.bits - 1) != t.flags.cf)))) ∧
    (completes (.shrd rm x c) s fun t => ∃ r, s.sameButData t ∧ s.wrote t n (s.place rm) r ∧
      (k < n.bits → r.toNat = (v.toNat * 2 ^ n.bits + d.toNat) / 2 ^ k % 2 ^ n.bits) ∧
      (n.bits ≤ k → r.toNat = 0) ∧ (k = 0 → t.flags = s.flags) ∧
      (k ≠ 0 → t.flags.ofResult r ∧ s.flags.sameControl t.flags ∧ t.flags.cf = d.getLsbD (k - 1) ∧
        (k = 1 → t.flags.ovf = (r.getLsbD (n.bits - 1) != r.getLsbD (n.bits - 2)))))

/-- BT, BTS, BTR and BTC: the place and the number of the bit, CF, the one bit changed, ZF kept, OF SF AF PF free
(42_arithmetic_logic R430 to R433). -/
def Obligations.BitTestResults : Prop :=
  ∀ (rm : RM) (x : BitIdx) (s : State), s.paged = true →
    let n := s.osz.width
    let p := s.bitPlace n rm x
    let i := s.bitNum n x
    let v := s.placeVal n p
    let flagsOk : State → Prop := fun t =>
      t.flags.cf = v.getLsbD i ∧ t.flags.zf = s.flags.zf ∧ s.flags.sameControl t.flags
    (∀ r, rm = .reg r → p = .reg r) ∧
    (∀ m k, rm = .mem m → x = .imm k → p = .mem (s.eaSeg m) (s.eaOff m)) ∧
    (∀ k, x = .imm k → i = k.toNat % n.bits) ∧
    (∀ r, x = .reg r → i < n.bits ∧ ∃ q : Int, (s.regs.rn n r).toInt = q * n.bits + i ∧
      ∀ m, rm = .mem m →
        p = .mem (s.eaSeg m) ((memSz m).trunc (s.eaOff m + BitVec.ofInt 32 (q * n.bytes)))) ∧
    (completes (.bt rm x) s fun t => s.sameButData t ∧ flagsOk t ∧ t.regs = s.regs ∧ s.mem.kept t.mem) ∧
    (completes (.bts rm x) s fun t => ∃ r, s.sameButData t ∧ flagsOk t ∧ s.wrote t n p r ∧
      ∀ j, j < n.bits → r.getLsbD j = if j = i then true else v.getLsbD j) ∧
    (completes (.btr rm x) s fun t => ∃ r, s.sameButData t ∧ flagsOk t ∧ s.wrote t n p r ∧
      ∀ j, j < n.bits → r.getLsbD j = if j = i then false else v.getLsbD j) ∧
    (completes (.btc rm x) s fun t => ∃ r, s.sameButData t ∧ flagsOk t ∧ s.wrote t n p r ∧
      ∀ j, j < n.bits → r.getLsbD j = if j = i then !v.getLsbD j else v.getLsbD j)

/-- BSF and BSR find the least and the greatest bit that is set and clear ZF; on a zero operand they set ZF and the
destination is free; CF OF SF AF PF are free (42_arithmetic_logic R434, R435). -/
def Obligations.BitScanResults : Prop :=
  ∀ (r : Num8) (rm : RM) (s : State), s.paged = true →
    let n := s.osz.width
    let v := s.rmVal n rm
    let scanned : State → (Nat → Prop) → Prop := fun t best =>
      s.sameButData t ∧ s.mem.kept t.mem ∧ s.flags.sameControl t.flags ∧ t.flags.zf = decide (v.toNat = 0) ∧
      ∃ x : BitVec n.bits, t.regs = s.regs.setRn n r x ∧
        (v.toNat ≠ 0 → x.toNat < n.bits ∧ v.getLsbD x.toNat = true ∧ best x.toNat)
    (completes (.bsf r rm) s fun t => scanned t fun k => ∀ j, v.getLsbD j = true → k ≤ j) ∧
    (completes (.bsr r rm) s fun t => scanned t fun k => ∀ j, v.getLsbD j = true → j ≤ k)

/-- The decimal adjustments of AL, as numbers, with the flags each defines; the others it writes are free; AAM with an
immediate of 0 raises #DE (42_arithmetic_logic R436 to R441). -/
def Obligations.DecimalAdjustResults : Prop :=
  ∀ (ib : Byte) (s : State), s.paged = true →
    let al := (s.regs.r8 .n0).toNat
    let ah := (s.regs.r8 .n4).toNat
    let ax := (s.regs.r16 .n0).toNat
    let low := decide (9 < al % 16) || s.flags.af
    let high := decide (0x99 < al) || s.flags.cf
    (completes .daa s fun t => ∃ r : Byte, s.sameButData t ∧ t.mem = s.mem ∧ t.regs = s.regs.setRn .b8 .n0 r ∧
      r.toNat = (al + (if low then 6 else 0) + (if high then 0x60 else 0)) % 256 ∧ t.flags.af = low ∧
      t.flags.cf = high ∧ t.flags.ofResult r ∧ s.flags.sameControl t.flags) ∧
    (completes .das s fun t => ∃ r : Byte, s.sameButData t ∧ t.mem = s.mem ∧ t.regs = s.regs.setRn .b8 .n0 r ∧
      r.toNat = (512 + al - (if low then 6 else 0) - (if high then 0x60 else 0)) % 256 ∧ t.flags.af = low ∧
      t.flags.cf = (high || (low && (s.flags.cf || decide (al < 6)))) ∧ t.flags.ofResult r ∧
      s.flags.sameControl t.flags) ∧
    (completes .aaa s fun t => ∃ r : BitVec 16, s.sameButData t ∧ t.mem = s.mem ∧
      t.regs = s.regs.setRn .b16 .n0 r ∧
      (let y := if low then (ax + 0x106) % 65536 else ax; r.toNat = y / 256 * 256 + y % 16) ∧ t.flags.af = low ∧
      t.flags.cf = low ∧ s.flags.sameControl t.flags) ∧
    (completes .aas s fun t => ∃ r : BitVec 16, s.sameButData t ∧ t.mem = s.mem ∧
      t.regs = s.regs.setRn .b16 .n0 r ∧
      (let y := if low then (65536 + ax - 0x106) % 65536 else ax; r.toNat = y / 256 * 256 + y % 16) ∧
      t.flags.af = low ∧ t.flags.cf = low ∧ s.flags.sameControl t.flags) ∧
    (ib.toNat ≠ 0 → completes (.aam ib) s fun t => ∃ h l : Byte, s.sameButData t ∧ t.mem = s.mem ∧
      t.regs = s.regs.setRn .b16 .n0 (h ++ l) ∧ h.toNat = al / ib.toNat ∧ l.toNat = al % ib.toNat ∧
      t.flags.ofResult l ∧ s.flags.sameControl t.flags) ∧
    (ib.toNat = 0 → completes (.aam ib) s fun t => s.raised t ⟨0, .fault, false, true, 0⟩) ∧
    (completes (.aad ib) s fun t => ∃ l : Byte, s.sameButData t ∧ t.mem = s.mem ∧
      t.regs = s.regs.setRn .b16 .n0 (l.setWidth 16) ∧ l.toNat = (al + ah * ib.toNat) % 256 ∧
      t.flags.ofResult l ∧ s.flags.sameControl t.flags)

/-- CLC, STC, CMC, CLD, STD, SAHF and LAHF; CLI and STI where IOPL allows; HLT at level 0, which halts with the HALT
reason; WAIT, which does nothing (42_arithmetic_logic R442 to R446; 41_data_movement R347, R348; 45_system R581 to R583,
R585). -/
def Obligations.FlagAndControlInstructions : Prop :=
  ∀ s : State,
    (s.pe = false ∨ s.cpl = 0 → completes .hlt s fun t =>
      t = { s with ctl := { s.ctl with halted := true, reason := s.ctl.reason ||| 0x20 } }) ∧
    (s.pe = false ∨ s.cpl.toNat ≤ s.flags.iopl.toNat → completes .cli s fun t =>
      t = { s with flags := { s.flags with ifl := false } }) ∧
    (s.pe = false ∨ s.cpl.toNat ≤ s.flags.iopl.toNat → completes .sti s fun t =>
      t = { s with flags := { s.flags with ifl := true } }) ∧
    (completes .wait s fun t => t = s) ∧
    (completes .clc s fun t => t = { s with flags := { s.flags with cf := false } }) ∧
    (completes .stc s fun t => t = { s with flags := { s.flags with cf := true } }) ∧
    (completes .cmc s fun t => t = { s with flags := { s.flags with cf := !s.flags.cf } }) ∧
    (completes .cld s fun t => t = { s with flags := { s.flags with df := false } }) ∧
    (completes .std s fun t => t = { s with flags := { s.flags with df := true } }) ∧
    (completes .sahf s fun t => ∃ f, t = { s with flags := f } ∧ f.ovf = s.flags.ovf ∧ s.flags.sameControl f ∧
      f.sf = (s.regs.r8 .n4).getLsbD 7 ∧ f.zf = (s.regs.r8 .n4).getLsbD 6 ∧ f.af = (s.regs.r8 .n4).getLsbD 4 ∧
      f.pf = (s.regs.r8 .n4).getLsbD 2 ∧ f.cf = (s.regs.r8 .n4).getLsbD 0) ∧
    (completes .lahf s fun t => ∃ v : Byte, t = { s with regs := s.regs.setRn .b8 .n4 v } ∧
      v.getLsbD 7 = s.flags.sf ∧ v.getLsbD 6 = s.flags.zf ∧ v.getLsbD 5 = false ∧ v.getLsbD 4 = s.flags.af ∧
      v.getLsbD 3 = false ∧ v.getLsbD 2 = s.flags.pf ∧ v.getLsbD 1 = true ∧ v.getLsbD 0 = s.flags.cf)

/-! ## Data movement -/

/-- The general forms of MOV copy their source to their destination and change nothing else
(41_data_movement R321 to R324). -/
def Obligations.MovCopiesSource : Prop :=
  ∀ (f : MovForm) (s : State), s.paged = true →
    completes (.mov f) s fun t => s.sameButData t ∧ t.flags = s.flags ∧
      match f with
      | .rmR w rm r => s.wrote t (w.width s.osz) (s.place rm) (s.regs.rn (w.width s.osz) r)
      | .rRm w r rm => s.wrote t (w.width s.osz) (.reg r) (s.rmVal (w.width s.osz) rm)
      | .ebIb rm v => s.wrote t .b8 (s.place rm) v
      | .evIz rm z => s.wrote t s.osz.width (s.place rm) (izVal s.osz.width z)
      | .rIb r v => s.wrote t .b8 (.reg r) v
      | .rIz r z => s.wrote t s.osz.width (.reg r) (izVal s.osz.width z)
      | .accOff w o => s.wrote t (w.width s.osz) (.reg .n0)
          (s.mem.val (w.width s.osz) (s.sourceSeg.base + moffsVal o))
      | .offAcc w o => t.regs = s.regs ∧
          s.mem.stored t.mem (w.width s.osz) (s.sourceSeg.base + moffsVal o) (s.regs.rn (w.width s.osz) .n0)

/-- MOVZX, MOVSX, LEA, XLAT, CBW, CWDE, CWD, CDQ, XCHG and NOP: the value, its destination, and nothing else
(41_data_movement R327 to R329, R341 to R343, R345, R346). -/
def Obligations.RegisterMoveResults : Prop :=
  ∀ (w : OpW) (r : Num8) (rm : RM) (m : MemRef) (x : XchgForm) (s : State), s.paged = true →
    let o := s.osz.width
    let src : Width := match w with | .b => .b8 | .v => .b16
    let n := w.width s.osz
    let table : Word := match s.asz with
      | .s16 => (s.regs.rn .b16 .n3 + (s.regs.rn .b8 .n0).setWidth 16).setWidth 32
      | .s32 => s.regs.rn .b32 .n3 + (s.regs.rn .b8 .n0).setWidth 32
    (completes (.movzx w r rm) s fun t => ∃ v, s.onlyRegs t ∧ t.regs = s.regs.setRn o r v ∧
      v.toNat = (s.rmVal src rm).toNat) ∧
    (completes (.movsx w r rm) s fun t => ∃ v, s.onlyRegs t ∧ t.regs = s.regs.setRn o r v ∧
      v.toInt = (s.rmVal src rm).toInt) ∧
    (completes (.lea r m) s fun t => ∃ v, s.onlyRegs t ∧ t.mem = s.mem ∧ t.regs = s.regs.setRn o r v ∧
      v.toNat = (s.eaOff m).toNat % 2 ^ o.bits) ∧
    (completes .xlat s fun t => s.onlyRegs t ∧
      t.regs = s.regs.setRn .b8 .n0 (s.mem.val .b8 (s.sourceSeg.base + table))) ∧
    (completes .cbw s fun t => ∃ v : BitVec 16, s.onlyRegs t ∧ t.regs = s.regs.setRn .b16 .n0 v ∧
      v.toInt = (s.regs.rn .b8 .n0).toInt) ∧
    (completes .cwde s fun t => ∃ v : BitVec 32, s.onlyRegs t ∧ t.regs = s.regs.setRn .b32 .n0 v ∧
      v.toInt = (s.regs.rn .b16 .n0).toInt) ∧
    (completes .cwd s fun t => ∃ v : BitVec 16, s.onlyRegs t ∧ t.regs = s.regs.setRn .b16 .n2 v ∧
      v.toInt = if (s.regs.rn .b16 .n0).getLsbD 15 then -1 else 0) ∧
    (completes .cdq s fun t => ∃ v : BitVec 32, s.onlyRegs t ∧ t.regs = s.regs.setRn .b32 .n2 v ∧
      v.toInt = if (s.regs.rn .b32 .n0).getLsbD 31 then -1 else 0) ∧
    (completes (.xchg (.rmR w rm r)) s fun t => s.sameButData t ∧ t.flags = s.flags ∧
      match rm with
      | .reg q => t.regs = (s.regs.setRn n q (s.regs.rn n r)).setRn n r (s.regs.rn n q) ∧ s.mem.kept t.mem
      | .mem a => t.regs = s.regs.setRn n r (s.rmVal n rm) ∧
          s.mem.stored t.mem n ((s.segs.get (s.eaSeg a)).base + s.eaOff a) (s.regs.rn n r)) ∧
    (completes (.xchg (.acc r)) s fun t => s.onlyRegs t ∧
      t.regs = (s.regs.setRn o .n0 (s.regs.rn o r)).setRn o r (s.regs.rn o .n0)) ∧
    (completes .nop s fun t => t = s) ∧
    (∀ q, x = .acc q → q = .n0 → completes (.xchg x) s fun t => t = s)

/-- Loading ES, SS, DS, FS or GS in real mode never faults: selector, base 16 times the selector, limit and access rights
kept; the rest of each instruction's effect follows (20_memory R130; 41_data_movement R326, R338, R344). -/
def Obligations.RealModeSegmentLoads : Prop :=
  ∀ (g : Seg) (r : Num8) (rm : RM) (m : MemRef) (s : State), g ≠ .cs → s.paged = true → s.pe = false →
    let w := s.osz.width
    let loaded : State → Seg → BitVec 16 → Prop := fun t g sel =>
      s.sameButSegs t ∧ t.eip = s.eip ∧ t.flags = s.flags ∧ s.mem.kept t.mem ∧
      t.segs = s.segs.set g ((s.segs.get g).inReal sel)
    (completes (.movToSeg g rm) s fun t => loaded t g (s.rmVal .b16 rm) ∧ t.regs = s.regs) ∧
    (completes (.popSeg g) s fun t => loaded t g ((s.stackAt w 0).setWidth 16) ∧ t.regs = s.released w.bytes) ∧
    (∀ c ∈ [(Instr.lds r m, Seg.ds), (.les r m, .es), (.lfs r m, .fs), (.lgs r m, .gs), (.lss r m, .ss)],
      completes c.1 s fun t => loaded t c.2 (s.eaVal .b16 m w.bytes) ∧
        t.regs = s.regs.setRn w r (s.eaVal w m 0))

/-- MOV and POP to a segment register and LDS, LES, LFS, LGS and LSS in protected mode (20_memory R131 to R136;
41_data_movement R326, R338, R344): a null selector clears the segment register; a descriptor inside its table (the LDT
when bit 2 of the selector is set), readable, present and a segment is loaded; then POP releases the stack, by the size of
the SS that is then loaded (read so by inference, log entry 16), and LDS and its like write the offset; any other selector
raises #GP with itself as error code, with no register written. -/
def Obligations.ProtectedSegmentLoad : Prop :=
  ∀ (g : Seg) (r : Num8) (rm : RM) (m : MemRef) (s : State), g ≠ .cs → s.paged = true → s.pe = true →
    let w := s.osz.width
    let offsetTo : SegReg → Bank := fun _ => s.regs.setRn w r (s.eaVal w m 0)
    let psel := s.eaVal .b16 m w.bytes
    let forms : List (Instr × Seg × BitVec 16 × (SegReg → Bank)) :=
      [(.movToSeg g rm, g, s.rmVal .b16 rm, fun _ => s.regs),
        (.popSeg g, g, (s.stackAt w 0).setWidth 16, fun v => (s.segs.set g v).ss.releasedIn s.regs w.bytes),
        (.lds r m, .ds, psel, offsetTo), (.les r m, .es, psel, offsetTo), (.lfs r m, .fs, psel, offsetTo),
        (.lgs r m, .gs, psel, offsetTo), (.lss r m, .ss, psel, offsetTo)]
    ∀ c ∈ forms,
      let sel := c.2.2.1
      let base := if sel.getLsbD 2 then s.sys.ldtr.base else s.sys.gdtr.base
      let limit := if sel.getLsbD 2 then s.sys.ldtr.limit.toNat else s.sys.gdtr.limit.toNat
      let offset := sel.toNat / 8 * 8
      let a := base + BitVec.ofNat 32 offset
      let loaded : SegReg → Prop := fun v => completes c.1 s fun t =>
        s.sameButSegs t ∧ t.regs = c.2.2.2 v ∧ t.eip = s.eip ∧ t.flags = s.flags ∧ s.mem.kept t.mem ∧
        t.segs = s.segs.set c.2.1 v
      let refused : Prop := completes c.1 s fun t => s.raised t ⟨13, .fault, true, true, sel.setWidth 32⟩
      (sel.toNat < 4 → loaded ⟨sel, 0, 0, 0⟩) ∧
      (4 ≤ sel.toNat → limit < offset + 7 → refused) ∧
      (4 ≤ sel.toNat → offset + 7 ≤ limit → (∃ b ∈ span 8 a, s.mem.permitted .read b = false) → refused) ∧
      (4 ≤ sel.toNat → offset + 7 ≤ limit → ∀ b0 b1 b2 b3 b4 b5 b6 b7 : Byte,
        s.mem.holds a [b0, b1, b2, b3, b4, b5, b6, b7] →
        (b5.getLsbD 7 = true → b5.getLsbD 4 = true → loaded (segOfBytes sel b0 b1 b2 b3 b4 b5 b6 b7)) ∧
        (b5.getLsbD 7 = false ∨ b5.getLsbD 4 = false → refused))

/-- Storing selectors, the machine status word and table registers. To memory a selector and the machine status word are
16 bits, whatever the operand size. In a register a selector is zero-extended to the operand size, and SMSW writes CR0
truncated to it, all 32 bits at operand size 32. A table register is its 16-bit limit, then all 32 bits of its base
(41_data_movement R325; 45_system R590, R591, R594, R595, R604). SLDT and STR need protected mode. -/
def Obligations.SystemStores : Prop :=
  ∀ (g : Seg) (rm : RM) (m : MemRef) (s : State), s.paged = true →
    let o := s.osz.width
    let out : State → BitVec o.bits → BitVec 16 → Prop := fun t v v16 =>
      s.sameButData t ∧ t.flags = s.flags ∧
      match rm with
      | .reg r => t.regs = s.regs.setRn o r v ∧ t.mem = s.mem
      | .mem a => t.regs = s.regs ∧ s.mem.stored t.mem .b16 ((s.segs.get (s.eaSeg a)).base + s.eaOff a) v16
    let base := (s.segs.get (s.eaSeg m)).base
    let table : State → TableReg → Prop := fun t v =>
      s.sameButData t ∧ t.flags = s.flags ∧ t.regs = s.regs ∧
      ∃ m1, s.mem.stored m1 .b16 (base + s.eaNext m 0) v.limit ∧
        m1.stored t.mem .b32 (base + s.eaNext m 2) v.base
    (completes (.movFromSeg g rm) s fun t => out t ((s.segs.get g).sel.setWidth o.bits) (s.segs.get g).sel) ∧
    (s.pe = true → completes (.sldt rm) s fun t => out t (s.sys.ldtr.sel.setWidth o.bits) s.sys.ldtr.sel) ∧
    (s.pe = true → completes (.str rm) s fun t => out t (s.sys.tr.sel.setWidth o.bits) s.sys.tr.sel) ∧
    (completes (.smsw rm) s fun t => out t (s.sys.cr.r0.setWidth o.bits) (s.sys.cr.r0.setWidth 16)) ∧
    (completes (.sgdt m) s fun t => table t s.sys.gdtr) ∧
    (completes (.sidt m) s fun t => table t s.sys.idtr)

/-- PUSH of every form, PUSHF and PUSHFD store one value below the stack pointer, at the stack's pointer size; PUSH of
the stack pointer stores its old value (41_data_movement R330, R332 to R335, R349). -/
def Obligations.PushResults : Prop :=
  ∀ (f : PushForm) (s : State), s.paged = true →
    let w := s.osz.width
    let v : BitVec w.bits := match f with
      | .seg g => (s.segs.get g).sel.setWidth w.bits
      | .reg r => s.regs.rn w r
      | .iz z => izVal w z
      | .ib x => x.signExtend w.bits
      | .ev rm => s.rmVal w rm
    (completes (.push f) s fun t => s.sameButData t ∧ t.flags = s.flags ∧
      ∃ m1, s.mem.kept m1 ∧ pushed s.segs.ss w v s.regs m1 t.regs t.mem) ∧
    (completes .pushf s fun t => s.sameButData t ∧ t.flags = s.flags ∧
      pushed s.segs.ss .b16 (s.flags.toWord.setWidth 16) s.regs s.mem t.regs t.mem) ∧
    (completes .pushfd s fun t => s.sameButData t ∧ t.flags = s.flags ∧
      pushed s.segs.ss .b32 s.flags.toWord s.regs s.mem t.regs t.mem)

/-- POP reads the top of the stack, releases it, then writes its operand: a popped stack pointer wins, and a memory
operand's address is computed with the released one (41_data_movement R331, R336, R337). -/
def Obligations.PopResults : Prop :=
  ∀ (f : PopForm) (s : State), s.paged = true →
    let w := s.osz.width
    let s1 := { s with regs := s.released w.bytes }
    completes (.pop f) s fun t => s.sameButData t ∧ t.flags = s.flags ∧
      match f with
      | .reg r => t.regs = (s.released w.bytes).setRn w r (s.stackAt w 0) ∧ s.mem.kept t.mem
      | .ev rm => ∃ m1, s.mem.kept m1 ∧ { s1 with mem := m1 }.wrote t w (s1.place rm) (s.stackAt w 0)

/-- POPF and POPFD: the popped image reaches EFLAGS through WriteFlags, with the privilege conditions on IOPL and IF; the
constant bits stay (41_data_movement R350, R352; 10_state R41). -/
def Obligations.PopFlagsResults : Prop :=
  ∀ s : State, s.paged = true →
    (completes .popf s fun t => s.sameButData t ∧ s.mem.kept t.mem ∧ t.regs = s.released 2 ∧
      t.flags.toWord = s.flagsWritten ((s.stackAt .b16 0).setWidth 32)) ∧
    (completes .popfd s fun t => s.sameButData t ∧ s.mem.kept t.mem ∧ t.regs = s.released 4 ∧
      t.flags.toWord = s.flagsWritten (s.stackAt .b32 0))

/-- PUSHA and PUSHAD push the eight registers in order, the stack pointer as it was before; POPA and POPAD read them
back, but for the stack pointer, which ends past them (41_data_movement R339, R340). -/
def Obligations.PushAllPopAll : Prop :=
  ∀ s : State, s.paged = true →
    let all : (w : Width) → List (BitVec w.bits) := fun w =>
      [s.regs.rn w .n0, s.regs.rn w .n1, s.regs.rn w .n2, s.regs.rn w .n3, s.regs.rn w .n4, s.regs.rn w .n5,
        s.regs.rn w .n6, s.regs.rn w .n7]
    let popped : State → (w : Width) → Prop := fun t w =>
      s.onlyRegs t ∧
      (∀ c ∈ [(Num8.n7, 0), (.n6, 1), (.n5, 2), (.n3, 4), (.n2, 5), (.n1, 6), (.n0, 7)],
        t.regs.rn w c.1 = s.stackAt w (c.2 * w.bytes) ∧
        (w = .b16 → (t.regs.get c.1).toNat / 65536 = (s.regs.get c.1).toNat / 65536)) ∧
      t.regs.r4 = (s.released (8 * w.bytes)).r4
    (completes .pusha s fun t => s.sameButData t ∧ t.flags = s.flags ∧
      pushSeq s.segs.ss .b16 (all .b16) s.regs s.mem t.regs t.mem) ∧
    (completes .pushad s fun t => s.sameButData t ∧ t.flags = s.flags ∧
      pushSeq s.segs.ss .b32 (all .b32) s.regs s.mem t.regs t.mem) ∧
    (completes .popa s fun t => popped t .b16) ∧
    (completes .popad s fun t => popped t .b32)

/-- ENTER and LEAVE (41_data_movement R353, R354). ENTER pushes the old frame pointer; for a level of 1 or more it then
lowers the frame pointer and pushes what the stack holds there, level - 1 times, and pushes the new frame pointer, which
is the stack pointer after the first push. The frame pointer is written at the operand size and the stack pointer ends
below the pushes and the local bytes; only the pushed places are written. LEAVE takes the stack pointer from the frame
pointer and pops it. -/
def Obligations.EnterAndLeave : Prop :=
  ∀ (size : BitVec 16) (level : Byte) (s : State), s.paged = true →
    let w := s.osz.width
    let g := s.segs.ss
    let z := g.size
    let lvl := level.toNat % 32
    let n := if lvl = 0 then 1 else lvl + 1
    let down : Nat → Word := fun k => z.trunc (s.regs.r4 - BitVec.ofNat 32 k)
    let frame : BitVec w.bits := (down w.bytes).setWidth w.bits
    (completes (.enter size level) s fun t => s.sameButData t ∧ t.flags = s.flags ∧
      t.regs.rn w .n5 = frame ∧
      z.trunc t.regs.r4 = down (n * w.bytes + size.toNat) ∧
      (z = .s16 → t.regs.r4.toNat / 65536 = s.regs.r4.toNat / 65536) ∧
      (∀ i, i ≠ .n4 → i ≠ .n5 → t.regs.get i = s.regs.get i) ∧
      s.mem.keepsBut t.mem
        ((List.range n).flatMap fun k => span w.bytes (g.base + down ((k + 1) * w.bytes))) ∧
      (lvl = 0 → s.mem.stored t.mem w (g.base + down w.bytes) (s.regs.rn w .n5) ∧
        (w = .b16 → t.regs.r5.toNat / 65536 = s.regs.r5.toNat / 65536)) ∧
      (lvl ≠ 0 → ∃ b1 m1 b2 m2 b3, pushed g w (s.regs.rn w .n5) s.regs s.mem b1 m1 ∧
        frameCopies g w (lvl - 1) b1 m1 b2 m2 ∧ pushed g w frame b2 m2 b3 t.mem ∧
        t.regs.r5 = (b2.setRn w .n5 frame).r5)) ∧
    (let s1 := { s with regs := s.regs.setRn z.width .n4 (s.regs.rn z.width .n5) }
     completes .leave s fun t => s.sameButData t ∧ t.flags = s.flags ∧ s.mem.kept t.mem ∧
      t.regs = (s1.released w.bytes).setRn w .n5 (s1.stackAt w 0))

/-- SETcc writes 1 to its byte operand when the condition holds, else 0 (41_data_movement R356, 43_control_transfer
R481). -/
def Obligations.SetccResults : Prop :=
  ∀ (rm : RM) (s : State), s.paged = true →
    ∀ c ∈ [(Cond.o, Instr.seto rm), (.no, .setno rm), (.b, .setb rm), (.nb, .setnb rm), (.z, .setz rm),
        (.nz, .setnz rm), (.be, .setbe rm), (.nbe, .setnbe rm), (.s, .sets rm), (.ns, .setns rm), (.p, .setp rm),
        (.np, .setnp rm), (.l, .setl rm), (.nl, .setnl rm), (.le, .setle rm), (.nle, .setnle rm)],
      completes c.2 s fun t => ∃ v : Byte, s.sameButData t ∧ t.flags = s.flags ∧ s.wrote t .b8 (s.place rm) v ∧
        (condTable s.flags c.1 → v = 1) ∧ (¬condTable s.flags c.1 → v = 0)

/-! ## Control transfer -/

/-- Relative branches: JMP, the sixteen Jcc, LOOP, LOOPE, LOOPNE and JCXZ. The target is the advanced EIP plus the signed
displacement, modulo two to the operand size; the loop counter is CX or ECX by the address size and no flag is written
(43_control_transfer R480 to R484, R495 to R498). -/
def Obligations.RelativeBranches : Prop :=
  ∀ (rel : Rel) (b : BitVec 8) (s : State),
    let disp : Int := match rel with | .short v => v.toInt | .near (.w v) => v.toInt | .near (.d v) => v.toInt
    let target : Int → Word := fun d => BitVec.ofInt 32 (((s.eip.toNat : Int) + d) % 2 ^ s.osz.width.bits)
    let z := s.asz.width
    let cnt := s.regs.rn z .n1
    let counted : Bank := s.regs.setRn z .n1 (cnt - BitVec.ofNat z.bits 1)
    (completes (.jmp rel) s fun t => t = { s with eip := target disp }) ∧
    (∀ c ∈ [(Cond.o, Instr.jo rel), (.no, .jno rel), (.b, .jb rel), (.nb, .jnb rel), (.z, .jz rel), (.nz, .jnz rel),
        (.be, .jbe rel), (.nbe, .jnbe rel), (.s, .js rel), (.ns, .jns rel), (.p, .jp rel), (.np, .jnp rel),
        (.l, .jl rel), (.nl, .jnl rel), (.le, .jle rel), (.nle, .jnle rel)],
      completes c.2 s fun t => (condTable s.flags c.1 → t = { s with eip := target disp }) ∧
        (¬condTable s.flags c.1 → t = s)) ∧
    (completes (.loop b) s fun t =>
      t = { s with regs := counted, eip := if cnt.toNat ≠ 1 then target b.toInt else s.eip }) ∧
    (completes (.loope b) s fun t =>
      t = { s with regs := counted
                   eip := if cnt.toNat ≠ 1 ∧ s.flags.zf = true then target b.toInt else s.eip }) ∧
    (completes (.loopne b) s fun t =>
      t = { s with regs := counted
                   eip := if cnt.toNat ≠ 1 ∧ s.flags.zf = false then target b.toInt else s.eip }) ∧
    (completes (.jcxz b) s fun t => t = { s with eip := if cnt.toNat = 0 then target b.toInt else s.eip })

/-- Near transfers: JMP and CALL through an operand, CALL relative, RET with and without released bytes. CALL pushes the
offset of the next instruction; the target of an indirect call is read before the push. An installed call/jump hook that
is defined for the target of a transfer through memory, in the state where the target has been read, leaves the state the
core goes on in, with no push and no jump; it does not see a transfer through a register (43_control_transfer R485, R488,
R489, R492, R504; 60_exceptions R690). What the hook answers is free (log entry 9). -/
def Obligations.NearTransfers : Prop :=
  ∀ (rm : RM) (rel : Iz) (iw : BitVec 16) (s : State), s.paged = true →
    let w := s.osz.width
    let ret : BitVec w.bits := s.eip.setWidth w.bits
    let dest := (s.rmVal w rm).setWidth 32
    let disp : Int := match rel with | .w v => v.toInt | .d v => v.toInt
    let jumped : Prop := completes (.jmpRm rm) s fun t =>
      s.sameMachine t ∧ t.flags = s.flags ∧ t.regs = s.regs ∧ s.mem.kept t.mem ∧ t.eip = dest
    let called : Prop := completes (.callRm rm) s fun t =>
      s.sameMachine t ∧ t.flags = s.flags ∧ t.eip = dest ∧
      ∃ m1, s.mem.kept m1 ∧ pushed s.segs.ss w ret s.regs m1 t.regs t.mem
    let back : State → Nat → Prop := fun t k =>
      s.sameMachine t ∧ t.flags = s.flags ∧ s.mem.kept t.mem ∧ t.eip = (s.stackAt w 0).setWidth 32 ∧
      t.regs = s.released (w.bytes + k)
    (s.cfg.callJmpHook = false ∨ (∃ r, rm = .reg r) → jumped ∧ called) ∧
    (∀ m, s.cfg.callJmpHook = true → rm = .mem m → ∃ m1, s.mem.kept m1 ∧
      let seen := { s with mem := m1 }
      (match Config.callJmpHook .jump dest seen with
        | none => jumped
        | some u => completes (.jmpRm rm) s fun t => t = seen.resume u) ∧
      (match Config.callJmpHook .call dest seen with
        | none => called
        | some u => completes (.callRm rm) s fun t => t = seen.resume u)) ∧
    (completes (.call rel) s fun t =>
      s.sameMachine t ∧ t.flags = s.flags ∧ pushed s.segs.ss w ret s.regs s.mem t.regs t.mem ∧
      t.eip = BitVec.ofInt 32 (((s.eip.toNat : Int) + disp) % 2 ^ w.bits)) ∧
    (completes .ret s fun t => back t 0) ∧
    (completes (.retImm iw) s fun t => back t iw.toNat)

/-- Far transfers: far JMP and CALL, direct and through memory, RETF, IRET and IRETD, in real and in protected mode. CS is
loaded first: in real mode base 16 times the selector, in protected mode as its descriptor says; a selector that
cannot be loaded raises #GP with itself as error code and nothing is written. Then CALL pushes the old selector and the
offset of the next instruction; RETF and IRET take theirs from the stack and release it, and IRET writes EFLAGS with the
privilege conditions of the level before the load (43_control_transfer R486, R487, R490, R491, R493, R494, R503; 20_memory
R130 to R136; 41_data_movement R352). -/
def Obligations.FarTransfers : Prop :=
  ∀ (p : FarPtr) (m : MemRef) (iw : BitVec 16) (s : State), s.paged = true →
    let w := s.osz.width
    let far : Instr → BitVec 16 → Word → (State → Prop) → Prop := fun i sel off rest =>
      match s.segOutcome s.segs.cs sel with
      | some v => completes i s fun t => s.sameButSegs t ∧ t.segs = s.segs.set .cs v ∧ t.eip = off ∧ rest t
      | none => completes i s fun t => s.raised t ⟨13, .fault, true, true, sel.setWidth 32⟩
    let off : Word := match p.off with | .w v => v.setWidth 32 | .d v => v
    let moff : Word := (s.eaVal w m 0).setWidth 32
    let msel := s.eaVal .b16 m w.bytes
    let jumped : State → Prop := fun t => t.flags = s.flags ∧ t.regs = s.regs ∧ s.mem.kept t.mem
    let called : State → Prop := fun t => t.flags = s.flags ∧
      ∃ m1, s.mem.kept m1 ∧
        pushSeq s.segs.ss w [s.segs.cs.sel.setWidth w.bits, s.eip.setWidth w.bits] s.regs m1 t.regs t.mem
    let back : Instr → Width → Nat → (State → Prop) → Prop := fun i w k rest =>
      far i ((s.stackAt w w.bytes).setWidth 16) ((s.stackAt w 0).setWidth 32) fun t =>
        s.mem.kept t.mem ∧ t.regs = s.released k ∧ rest t
    far (.jmpFar p) p.sel off jumped ∧
    far (.jmpFarMem m) msel moff jumped ∧
    far (.callFar p) p.sel off called ∧
    far (.callFarMem m) msel moff called ∧
    back .retf w (2 * w.bytes) (fun t => t.flags = s.flags) ∧
    back (.retfImm iw) w (2 * w.bytes + iw.toNat) (fun t => t.flags = s.flags) ∧
    back .iret .b16 6 (fun t => t.flags.toWord = s.flagsWritten ((s.stackAt .b16 4).setWidth 32)) ∧
    back .iretd .b32 12 (fun t => t.flags.toWord = s.flagsWritten (s.stackAt .b32 8))

/-- Software interrupts and checks: INT n, INT3 and INTO with OF set record a software interrupt, BOUND outside its
bounds #BR, every illegal encoding #UD, and nothing else happens; INTO with OF clear and BOUND inside its bounds do
nothing (43_control_transfer R499 to R502; 45_system R618, R619; 60_exceptions R645). -/
def Obligations.SoftwareInterruptsAndChecks : Prop :=
  ∀ (v : Byte) (r : Num8) (m : MemRef) (u : UdForm) (s : State), s.paged = true →
    let w := s.osz.width
    let i := (s.regs.rn w r).toInt
    let lo := (s.eaVal w m 0).toInt
    let hi := (s.eaVal w m w.bytes).toInt
    (completes (.int v) s fun t => s.raised t ⟨v, .software, false, false, 0⟩) ∧
    (completes .int3 s fun t => s.raised t ⟨3, .software, false, false, 0⟩) ∧
    (s.flags.ovf = true → completes .into s fun t => s.raised t ⟨4, .software, false, false, 0⟩) ∧
    (s.flags.ovf = false → completes .into s fun t => t = s) ∧
    (lo ≤ i → i ≤ hi → completes (.bound r m) s fun t => s.onlyRegs t ∧ t.regs = s.regs) ∧
    (i < lo ∨ hi < i → completes (.bound r m) s fun t => s.raised t ⟨5, .fault, false, true, 0⟩) ∧
    (completes (.ud u) s fun t => s.raised t ⟨6, .fault, false, true, 0⟩)

/-! ## Strings and ports -/

/-- One element of MOVS, CMPS, SCAS, LODS and STOS of each width: the operands at DS (or the override) and ES, the index
registers of the address size advanced by the width in the direction of DF, the flags of CMPS and SCAS those of a
comparison (44_string_io R540, R542 to R546). -/
def Obligations.StringElements : Prop :=
  ∀ s : State, s.paged = true → s.pfx.rep = none →
    let src : (w : Width) → BitVec w.bits := fun w => s.mem.val w (s.sourceSeg.base + s.indexAt .n6)
    let dst : (w : Width) → BitVec w.bits := fun w => s.mem.val w (s.segs.es.base + s.indexAt .n7)
    (∀ c ∈ [(Width.b8, Instr.movsb), (.b16, .movsw), (.b32, .movsd)], completes c.2 s fun t =>
      s.sameButData t ∧ t.flags = s.flags ∧
      t.regs = s.advanced c.1 1 .n7 (s.advanced c.1 1 .n6 s.regs) ∧
      ∃ m1, s.mem.kept m1 ∧ m1.stored t.mem c.1 (s.segs.es.base + s.indexAt .n7) (src c.1)) ∧
    (∀ c ∈ [(Width.b8, Instr.cmpsb), (.b16, .cmpsw), (.b32, .cmpsd)], completes c.2 s fun t =>
      s.sameButData t ∧ s.mem.kept t.mem ∧ t.regs = s.advanced c.1 1 .n7 (s.advanced c.1 1 .n6 s.regs) ∧
      ∃ r, subTable (src c.1) (dst c.1) false r s.flags t.flags) ∧
    (∀ c ∈ [(Width.b8, Instr.scasb), (.b16, .scasw), (.b32, .scasd)], completes c.2 s fun t =>
      s.sameButData t ∧ s.mem.kept t.mem ∧ t.regs = s.advanced c.1 1 .n7 s.regs ∧
      ∃ r, subTable (s.regs.rn c.1 .n0) (dst c.1) false r s.flags t.flags) ∧
    (∀ c ∈ [(Width.b8, Instr.lodsb), (.b16, .lodsw), (.b32, .lodsd)], completes c.2 s fun t =>
      s.onlyRegs t ∧ t.regs = s.advanced c.1 1 .n6 (s.regs.setRn c.1 .n0 (src c.1))) ∧
    (∀ c ∈ [(Width.b8, Instr.stosb), (.b16, .stosw), (.b32, .stosd)], completes c.2 s fun t =>
      s.sameButData t ∧ t.flags = s.flags ∧ t.regs = s.advanced c.1 1 .n7 s.regs ∧
      s.mem.stored t.mem c.1 (s.segs.es.base + s.indexAt .n7) (s.regs.rn c.1 .n0))

/-- Repetition (44_string_io R541). With either repeat prefix a string instruction whose counter is 0 does nothing; else
it runs one element, counts CX or ECX down and, unless CMPS or SCAS met the flag their prefix stops on, goes on as the
same instruction. So MOVS, LODS, STOS, INS and OUTS run as many elements as the counter says: the counter ends at 0, the
index registers advance by that many elements, no flag changes; MOVS and STOS store their elements in turn and nothing
else, LODS leaves the last element read, or the accumulator as it was. CMPS and SCAS run some number of elements, none
but the last of which met the stop, and the flags are those of the last comparison. INS and OUTS need the I/O
privilege. -/
def Obligations.RepeatRunsCount : Prop :=
  ∀ (s : State) (k : RepKind), s.paged = true → s.pfx.rep = some k →
    let cnt := (s.indexAt .n1).toNat
    let z := s.asz.width
    let counter : Nat → Bank → Bank := fun n b => b.setRn z .n1 (BitVec.ofNat z.bits n)
    let at_ : Num8 → Width → Nat → Word := fun i w n =>
      s.asz.trunc (if s.flags.df then s.indexAt i - BitVec.ofNat 32 (n * w.bytes)
        else s.indexAt i + BitVec.ofNat 32 (n * w.bytes))
    let from_ : Width → Nat → Word := fun w n => s.sourceSeg.base + at_ .n6 w n
    let to_ : Width → Nat → Word := fun w n => s.segs.es.base + at_ .n7 w n
    let written : Width → List Word := fun w => (List.range cnt).flatMap fun n => span w.bytes (to_ w n)
    let rest : State → Prop := fun t =>
      s.sameSystem t ∧ t.intr = s.intr ∧ t.segs = s.segs ∧ t.eip = s.eip ∧ t.flags = s.flags
    let goesOn : Instr → (State → Bool) → Prop := fun i stop =>
      (cnt = 0 → completes i s fun t => t = s) ∧
      (cnt ≠ 0 → completes i { s with pfx := { s.pfx with rep := none } } fun u =>
        let v := { u with
          pfx := s.pfx
          regs := u.regs.setRn z .n1 (u.regs.rn z .n1 - BitVec.ofNat z.bits 1) }
        exec i s = if stop v then .next v else exec i v)
    let compared : Instr → (n : Width) → (Nat → BitVec n.bits) → (Nat → BitVec n.bits) → (Nat → Bank) → Prop :=
      fun i w x y regs => completes i s fun t =>
        s.sameButData t ∧ s.mem.kept t.mem ∧ ∃ n, n ≤ cnt ∧ (n = 0 ↔ cnt = 0) ∧
          t.regs = counter (cnt - n) (regs n) ∧ (n = 0 → t = s) ∧
          (n ≠ 0 → ∃ r, subTable (n := w.bits) (x (n - 1)) (y (n - 1)) false r s.flags t.flags) ∧
          (∀ j, j + 1 < n → (x j = y j ↔ k = .rep)) ∧
          (n ≠ cnt → (x (n - 1) = y (n - 1) ↔ k = .repne))
    (∀ i ∈ [Instr.movsb, .movsw, .movsd, .lodsb, .lodsw, .lodsd, .stosb, .stosw, .stosd],
      goesOn i fun _ => false) ∧
    (∀ i ∈ [Instr.cmpsb, .cmpsw, .cmpsd, .scasb, .scasw, .scasd],
      goesOn i fun v => match k with | .rep => !v.flags.zf | .repne => v.flags.zf) ∧
    (∀ c ∈ [(Width.b8, Instr.movsb), (.b16, .movsw), (.b32, .movsd)], completes c.2 s fun t =>
      s.sameButData t ∧ t.flags = s.flags ∧ s.mem.keepsBut t.mem (written c.1) ∧
      t.regs = counter 0 (s.advanced c.1 cnt .n7 (s.advanced c.1 cnt .n6 s.regs)) ∧
      storedInTurn c.1 (to_ c.1) (fun m n => m.val c.1 (from_ c.1 n)) (List.range cnt) s.mem t.mem) ∧
    (∀ c ∈ [(Width.b8, Instr.stosb), (.b16, .stosw), (.b32, .stosd)], completes c.2 s fun t =>
      s.sameButData t ∧ t.flags = s.flags ∧ s.mem.keepsBut t.mem (written c.1) ∧
      t.regs = counter 0 (s.advanced c.1 cnt .n7 s.regs) ∧
      storedInTurn c.1 (to_ c.1) (fun _ _ => s.regs.rn c.1 .n0) (List.range cnt) s.mem t.mem) ∧
    (∀ c ∈ [(Width.b8, Instr.lodsb), (.b16, .lodsw), (.b32, .lodsd)], completes c.2 s fun t =>
      s.onlyRegs t ∧ t.regs = counter 0 (s.advanced c.1 cnt .n6
        (if cnt = 0 then s.regs else s.regs.setRn c.1 .n0 (s.mem.val c.1 (from_ c.1 (cnt - 1)))))) ∧
    (∀ c ∈ [(Width.b8, Instr.cmpsb), (.b16, .cmpsw), (.b32, .cmpsd)],
      compared c.2 c.1 (fun n => s.mem.val c.1 (from_ c.1 n)) (fun n => s.mem.val c.1 (to_ c.1 n))
        fun n => s.advanced c.1 n .n7 (s.advanced c.1 n .n6 s.regs)) ∧
    (∀ c ∈ [(Width.b8, Instr.scasb), (.b16, .scasw), (.b32, .scasd)],
      compared c.2 c.1 (fun _ => s.regs.rn c.1 .n0) (fun n => s.mem.val c.1 (to_ c.1 n))
        fun n => s.advanced c.1 n .n7 s.regs) ∧
    (s.pe = false ∨ s.cpl.toNat ≤ s.flags.iopl.toNat →
      (∀ i ∈ [Instr.insb, .insw, .insd, .outsb, .outsw, .outsd], goesOn i fun _ => false) ∧
      (∀ c ∈ [(Width.b8, Instr.insb), (.b16, .insw), (.b32, .insd)], completes c.2 s fun t =>
        rest t ∧ s.mem.keepsBut t.mem (written c.1) ∧ t.regs = counter 0 (s.advanced c.1 cnt .n7 s.regs) ∧
        t.ports.wr = s.ports.wr ∧ t.ports.out = s.ports.out) ∧
      (∀ c ∈ [(Width.b8, Instr.outsb), (.b16, .outsw), (.b32, .outsd)], completes c.2 s fun t =>
        rest t ∧ s.mem.kept t.mem ∧ t.regs = counter 0 (s.advanced c.1 cnt .n6 s.regs) ∧ t.ports.rd = s.ports.rd))

/-- IN, OUT and one element of INS and OUTS where the I/O privilege allows them (44_string_io R547 to R550; 20_memory
R150 to R153): refused ports read 0xFF or drop the byte and set `mem_invalid`, permitted ones are counted; a value read
from a permitted port is free; a permitted write is an output event. -/
def Obligations.PortInstructions : Prop :=
  ∀ (w : OpW) (a : PortArg) (s : State), s.paged = true → s.ports.wf = true →
    (s.pe = false ∨ s.cpl.toNat ≤ s.flags.iopl.toNat) →
    let n := w.width s.osz
    let p : BitVec 16 := match a with | .imm v => v.setWidth 16 | .dx => s.regs.rn .b16 .n2
    let dx := s.regs.rn .b16 .n2
    let rest : State → Prop := fun t =>
      s.sameSystem t ∧ t.intr = s.intr ∧ t.segs = s.segs ∧ t.eip = s.eip ∧ t.flags = s.flags
    (completes (.inp w a) s fun t => ∃ v, rest t ∧ s.portRead t n p v ∧ s.mem.kept t.mem ∧
      t.regs = s.regs.setRn n .n0 v) ∧
    (completes (.outp w a) s fun t => rest t ∧ s.portWrote t n p (s.regs.rn n .n0) ∧ s.mem.kept t.mem ∧
      t.regs = s.regs) ∧
    (s.pfx.rep = none → ∀ c ∈ [(Width.b8, Instr.insb), (.b16, .insw), (.b32, .insd)], completes c.2 s fun t =>
      ∃ (v : BitVec c.1.bits) (u : State), rest t ∧ s.portRead u c.1 dx v ∧ s.mem.kept u.mem ∧ t.ports = u.ports ∧
        u.mem.stored t.mem c.1 (s.segs.es.base + s.indexAt .n7) v ∧ t.regs = s.advanced c.1 1 .n7 s.regs) ∧
    (s.pfx.rep = none → ∀ c ∈ [(Width.b8, Instr.outsb), (.b16, .outsw), (.b32, .outsd)], completes c.2 s fun t =>
      ∃ u : State, rest t ∧ u.ports = s.ports ∧ s.mem.kept u.mem ∧ s.mem.kept t.mem ∧
        u.portWrote t c.1 dx (s.mem.val c.1 (s.sourceSeg.base + s.indexAt .n6)) ∧
        t.regs = s.advanced c.1 1 .n6 s.regs)

/-! ## System instructions -/

/-- Outside level 0 the privileged instructions raise #GP(0), and with a level above IOPL so do IN, OUT, INS, OUTS, CLI
and STI, in every case before anything else, so that no port and no memory byte is accessed (45_system R580; 60_exceptions
R671, R672; 44_string_io R551). LLDT and LTR are among the privileged ones in protected mode. -/
def Obligations.PrivilegedInstructionsTrap : Prop :=
  ∀ (a b : Num8) (m : MemRef) (rm : RM) (w : OpW) (p : PortArg) (s : State), s.pe = true →
    (s.cpl ≠ 0 →
      ∀ i ∈ [Instr.hlt, .lgdt m, .lidt m, .lldt rm, .ltr rm, .lmsw rm, .clts, .movFromCr a b, .movToCr a b,
          .movFromDr a b, .movToDr a b, .rdmsr, .wrmsr],
        completes i s fun t => s.raised t ⟨13, .fault, true, true, 0⟩ ∧ t.mem = s.mem) ∧
    (s.flags.iopl.toNat < s.cpl.toNat →
      ∀ i ∈ [Instr.inp w p, .outp w p, .insb, .insw, .insd, .outsb, .outsw, .outsd, .cli, .sti],
        completes i s fun t => s.raised t ⟨13, .fault, true, true, 0⟩ ∧ t.mem = s.mem)

/-- ARPL, SLDT, STR, LLDT and LTR raise #UD in real mode; in protected mode ARPL raises the requested level of its
operand to that of its register and says so in ZF (45_system R587, R589). -/
def Obligations.ProtectedModeOnlyInstructions : Prop :=
  ∀ (rm : RM) (r : Num8) (s : State), s.paged = true →
    let d := s.rmVal .b16 rm
    let x := s.regs.rn .b16 r
    (s.pe = false → ∀ i ∈ [Instr.arpl rm r, .sldt rm, .str rm, .lldt rm, .ltr rm],
      completes i s fun t => s.raised t ⟨6, .fault, false, true, 0⟩ ∧ t.mem = s.mem) ∧
    (s.pe = true → d.toNat % 4 < x.toNat % 4 → completes (.arpl rm r) s fun t => ∃ v : BitVec 16,
      s.sameButData t ∧ t.flags = { s.flags with zf := true } ∧ s.wrote t .b16 (s.place rm) v ∧
      v.toNat = d.toNat / 4 * 4 + x.toNat % 4) ∧
    (s.pe = true → x.toNat % 4 ≤ d.toNat % 4 → completes (.arpl rm r) s fun t =>
      s.sameButData t ∧ t.flags = { s.flags with zf := false } ∧ t.regs = s.regs ∧ s.mem.kept t.mem)

/-- LLDT and LTR at level 0 of protected mode: a null selector clears LDTR and is refused by LTR; a selector of the LDT,
outside the GDT, of an unreadable, absent or wrong descriptor is refused with #GP(selector); the right one is loaded
(45_system R592, R593). -/
def Obligations.SystemSegmentLoads : Prop :=
  ∀ (rm : RM) (s : State), s.paged = true → s.pe = true → s.cpl = 0 →
    let sel := s.rmVal .b16 rm
    let offset := sel.toNat / 8 * 8
    let limit := s.sys.gdtr.limit.toNat
    let a := s.sys.gdtr.base + BitVec.ofNat 32 offset
    let changed : State → Sys → Prop := fun t y =>
      t.sys = y ∧ t.regs = s.regs ∧ t.eip = s.eip ∧ t.flags = s.flags ∧ t.segs = s.segs ∧ t.intr = s.intr ∧
      t.pfx = s.pfx ∧ t.ctl = s.ctl ∧ t.ports = s.ports ∧ t.cfg = s.cfg ∧ s.mem.kept t.mem
    let refused : Instr → Prop := fun i => completes i s fun t =>
      s.raised t ⟨13, .fault, true, true, sel.setWidth 32⟩
    (sel.toNat < 4 → completes (.lldt rm) s fun t => changed t { s.sys with ldtr := ⟨sel, 0, 0, 0⟩ }) ∧
    (sel.toNat < 4 → refused (.ltr rm)) ∧
    (4 ≤ sel.toNat → sel.getLsbD 2 = true ∨ limit < offset + 7 ∨
        (∃ b ∈ span 8 a, s.mem.permitted .read b = false) → refused (.lldt rm) ∧ refused (.ltr rm)) ∧
    (4 ≤ sel.toNat → sel.getLsbD 2 = false → offset + 7 ≤ limit → ∀ b0 b1 b2 b3 b4 b5 b6 b7 : Byte,
      s.mem.holds a [b0, b1, b2, b3, b4, b5, b6, b7] →
      let g := segOfBytes sel b0 b1 b2 b3 b4 b5 b6 b7
      let kind := b5.toNat % 32
      let present := b5.getLsbD 7
      (present = true → kind = 0x2 → completes (.lldt rm) s fun t => changed t { s.sys with ldtr := g }) ∧
      (present = false ∨ kind ≠ 0x2 → refused (.lldt rm)) ∧
      (present = true → kind = 0x1 ∨ kind = 0x9 →
        completes (.ltr rm) s fun t => changed t { s.sys with tr := g }) ∧
      (present = false ∨ (kind ≠ 0x1 ∧ kind ≠ 0x9) → refused (.ltr rm)))

/-- The system registers at level 0: LGDT and LIDT (a 24-bit base at operand size 16), MOV to and from control and debug
registers (status flags free), LMSW (PE can be set, not cleared), CLTS, RDMSR and WRMSR, which raise #GP(0) on an index
without permission (45_system R596, R597, R600 to R603, R605 to R608). -/
def Obligations.SystemRegisterInstructions : Prop :=
  ∀ (a b : Num8) (m : MemRef) (rm : RM) (s : State), s.paged = true → s.sys.wf = true →
    (s.pe = false ∨ s.cpl = 0) →
    let base := (s.segs.get (s.eaSeg m)).base
    let raw := s.mem.val .b32 (base + s.eaNext m 2)
    let table : TableReg :=
      ⟨match s.osz with | .s16 => raw &&& 0x00FFFFFF | .s32 => raw, s.mem.val .b16 (base + s.eaNext m 0)⟩
    let changed : State → Sys → Prop := fun t y =>
      t.sys = y ∧ t.eip = s.eip ∧ t.segs = s.segs ∧ t.intr = s.intr ∧ t.pfx = s.pfx ∧ t.ctl = s.ctl ∧
      t.ports = s.ports ∧ t.cfg = s.cfg ∧ s.mem.kept t.mem
    let same : State → Prop := fun t => t.regs = s.regs ∧ t.flags = s.flags
    let perm : BitVec 2 := Sparse.get 0 s.sys.msrPerm s.regs.r1.toNat
    (completes (.lgdt m) s fun t => changed t { s.sys with gdtr := table } ∧ same t) ∧
    (completes (.lidt m) s fun t => changed t { s.sys with idtr := table } ∧ same t) ∧
    (completes (.movFromCr a b) s fun t => changed t s.sys ∧ t.regs = s.regs.setRn .b32 a (s.sys.cr.get b) ∧
      s.flags.sameControl t.flags) ∧
    (completes (.movToCr b a) s fun t => changed t { s.sys with cr := s.sys.cr.set b (s.regs.get a) } ∧
      t.regs = s.regs ∧ s.flags.sameControl t.flags) ∧
    (completes (.movFromDr a b) s fun t => changed t s.sys ∧ t.regs = s.regs.setRn .b32 a (s.sys.dr.get b) ∧
      s.flags.sameControl t.flags) ∧
    (completes (.movToDr b a) s fun t => changed t { s.sys with dr := s.sys.dr.set b (s.regs.get a) } ∧
      t.regs = s.regs ∧ s.flags.sameControl t.flags) ∧
    (completes (.lmsw rm) s fun t => ∃ v : Word,
      changed t { s.sys with cr := s.sys.cr.set .n0 v } ∧ same t ∧
      ∀ k, k < 32 → v.getLsbD k =
        (if k = 0 then s.sys.cr.r0.getLsbD 0 || (s.rmVal .b16 rm).getLsbD 0
         else if k ≤ 3 then (s.rmVal .b16 rm).getLsbD k else s.sys.cr.r0.getLsbD k)) ∧
    (completes .clts s fun t => ∃ v : Word, changed t { s.sys with cr := s.sys.cr.set .n0 v } ∧ same t ∧
      ∀ k, v.getLsbD k = (s.sys.cr.r0.getLsbD k && decide (k ≠ 3))) ∧
    (perm.getLsbD 0 = true → completes .rdmsr s fun t => ∃ hi lo : Word,
      changed t s.sys ∧ t.flags = s.flags ∧ hi ++ lo = Sparse.get 0 s.sys.msr s.regs.r1.toNat ∧
      t.regs = (s.regs.setRn .b32 .n0 lo).setRn .b32 .n2 hi) ∧
    (perm.getLsbD 0 = false → completes .rdmsr s fun t => s.raised t ⟨13, .fault, true, true, 0⟩) ∧
    (perm.getLsbD 1 = true → completes .wrmsr s fun t => same t ∧
      changed t { s.sys with msr := t.sys.msr } ∧
      ∀ k : Word, Sparse.get 0 t.sys.msr k.toNat =
        if k = s.regs.r1 then s.regs.r2 ++ s.regs.r0 else Sparse.get 0 s.sys.msr k.toNat) ∧
    (perm.getLsbD 1 = false → completes .wrmsr s fun t => s.raised t ⟨13, .fault, true, true, 0⟩)
end

