-- ==== Sys2Proof/Laws/State.lean ====
section
/-! SUPPORT. What each field of the state is after each update and each shared operation that is one update, true by
definition, so that no proof unfolds a record. -/

namespace Sys2Proof.Machine

variable (s : State)

/-! ### setRegs -/

@[simp] theorem State.setRegs_regs (v : Bank) : (s.setRegs v).regs = v := rfl
@[simp] theorem State.setRegs_eip (v : Bank) : (s.setRegs v).eip = s.eip := rfl
@[simp] theorem State.setRegs_flags (v : Bank) : (s.setRegs v).flags = s.flags := rfl
@[simp] theorem State.setRegs_segs (v : Bank) : (s.setRegs v).segs = s.segs := rfl
@[simp] theorem State.setRegs_sys (v : Bank) : (s.setRegs v).sys = s.sys := rfl
@[simp] theorem State.setRegs_intr (v : Bank) : (s.setRegs v).intr = s.intr := rfl
@[simp] theorem State.setRegs_pfx (v : Bank) : (s.setRegs v).pfx = s.pfx := rfl
@[simp] theorem State.setRegs_ctl (v : Bank) : (s.setRegs v).ctl = s.ctl := rfl
@[simp] theorem State.setRegs_mem (v : Bank) : (s.setRegs v).mem = s.mem := rfl
@[simp] theorem State.setRegs_ports (v : Bank) : (s.setRegs v).ports = s.ports := rfl
@[simp] theorem State.setRegs_draws (v : Bank) : (s.setRegs v).draws = s.draws := rfl
@[simp] theorem State.setRegs_io (v : Bank) : (s.setRegs v).io = s.io := rfl
@[simp] theorem State.setRegs_cfg (v : Bank) : (s.setRegs v).cfg = s.cfg := rfl

/-! ### setEip -/

@[simp] theorem State.setEip_regs (v : Word) : (s.setEip v).regs = s.regs := rfl
@[simp] theorem State.setEip_eip (v : Word) : (s.setEip v).eip = v := rfl
@[simp] theorem State.setEip_flags (v : Word) : (s.setEip v).flags = s.flags := rfl
@[simp] theorem State.setEip_segs (v : Word) : (s.setEip v).segs = s.segs := rfl
@[simp] theorem State.setEip_sys (v : Word) : (s.setEip v).sys = s.sys := rfl
@[simp] theorem State.setEip_intr (v : Word) : (s.setEip v).intr = s.intr := rfl
@[simp] theorem State.setEip_pfx (v : Word) : (s.setEip v).pfx = s.pfx := rfl
@[simp] theorem State.setEip_ctl (v : Word) : (s.setEip v).ctl = s.ctl := rfl
@[simp] theorem State.setEip_mem (v : Word) : (s.setEip v).mem = s.mem := rfl
@[simp] theorem State.setEip_ports (v : Word) : (s.setEip v).ports = s.ports := rfl
@[simp] theorem State.setEip_draws (v : Word) : (s.setEip v).draws = s.draws := rfl
@[simp] theorem State.setEip_io (v : Word) : (s.setEip v).io = s.io := rfl
@[simp] theorem State.setEip_cfg (v : Word) : (s.setEip v).cfg = s.cfg := rfl

/-! ### setFlags -/

@[simp] theorem State.setFlags_regs (v : Eflags) : (s.setFlags v).regs = s.regs := rfl
@[simp] theorem State.setFlags_eip (v : Eflags) : (s.setFlags v).eip = s.eip := rfl
@[simp] theorem State.setFlags_flags (v : Eflags) : (s.setFlags v).flags = v := rfl
@[simp] theorem State.setFlags_segs (v : Eflags) : (s.setFlags v).segs = s.segs := rfl
@[simp] theorem State.setFlags_sys (v : Eflags) : (s.setFlags v).sys = s.sys := rfl
@[simp] theorem State.setFlags_intr (v : Eflags) : (s.setFlags v).intr = s.intr := rfl
@[simp] theorem State.setFlags_pfx (v : Eflags) : (s.setFlags v).pfx = s.pfx := rfl
@[simp] theorem State.setFlags_ctl (v : Eflags) : (s.setFlags v).ctl = s.ctl := rfl
@[simp] theorem State.setFlags_mem (v : Eflags) : (s.setFlags v).mem = s.mem := rfl
@[simp] theorem State.setFlags_ports (v : Eflags) : (s.setFlags v).ports = s.ports := rfl
@[simp] theorem State.setFlags_draws (v : Eflags) : (s.setFlags v).draws = s.draws := rfl
@[simp] theorem State.setFlags_io (v : Eflags) : (s.setFlags v).io = s.io := rfl
@[simp] theorem State.setFlags_cfg (v : Eflags) : (s.setFlags v).cfg = s.cfg := rfl

/-! ### setSegs -/

@[simp] theorem State.setSegs_regs (v : Segs) : (s.setSegs v).regs = s.regs := rfl
@[simp] theorem State.setSegs_eip (v : Segs) : (s.setSegs v).eip = s.eip := rfl
@[simp] theorem State.setSegs_flags (v : Segs) : (s.setSegs v).flags = s.flags := rfl
@[simp] theorem State.setSegs_segs (v : Segs) : (s.setSegs v).segs = v := rfl
@[simp] theorem State.setSegs_sys (v : Segs) : (s.setSegs v).sys = s.sys := rfl
@[simp] theorem State.setSegs_intr (v : Segs) : (s.setSegs v).intr = s.intr := rfl
@[simp] theorem State.setSegs_pfx (v : Segs) : (s.setSegs v).pfx = s.pfx := rfl
@[simp] theorem State.setSegs_ctl (v : Segs) : (s.setSegs v).ctl = s.ctl := rfl
@[simp] theorem State.setSegs_mem (v : Segs) : (s.setSegs v).mem = s.mem := rfl
@[simp] theorem State.setSegs_ports (v : Segs) : (s.setSegs v).ports = s.ports := rfl
@[simp] theorem State.setSegs_draws (v : Segs) : (s.setSegs v).draws = s.draws := rfl
@[simp] theorem State.setSegs_io (v : Segs) : (s.setSegs v).io = s.io := rfl
@[simp] theorem State.setSegs_cfg (v : Segs) : (s.setSegs v).cfg = s.cfg := rfl

/-! ### setSys -/

@[simp] theorem State.setSys_regs (v : Sys) : (s.setSys v).regs = s.regs := rfl
@[simp] theorem State.setSys_eip (v : Sys) : (s.setSys v).eip = s.eip := rfl
@[simp] theorem State.setSys_flags (v : Sys) : (s.setSys v).flags = s.flags := rfl
@[simp] theorem State.setSys_segs (v : Sys) : (s.setSys v).segs = s.segs := rfl
@[simp] theorem State.setSys_sys (v : Sys) : (s.setSys v).sys = v := rfl
@[simp] theorem State.setSys_intr (v : Sys) : (s.setSys v).intr = s.intr := rfl
@[simp] theorem State.setSys_pfx (v : Sys) : (s.setSys v).pfx = s.pfx := rfl
@[simp] theorem State.setSys_ctl (v : Sys) : (s.setSys v).ctl = s.ctl := rfl
@[simp] theorem State.setSys_mem (v : Sys) : (s.setSys v).mem = s.mem := rfl
@[simp] theorem State.setSys_ports (v : Sys) : (s.setSys v).ports = s.ports := rfl
@[simp] theorem State.setSys_draws (v : Sys) : (s.setSys v).draws = s.draws := rfl
@[simp] theorem State.setSys_io (v : Sys) : (s.setSys v).io = s.io := rfl
@[simp] theorem State.setSys_cfg (v : Sys) : (s.setSys v).cfg = s.cfg := rfl

/-! ### setIntr -/

@[simp] theorem State.setIntr_regs (v : Intr) : (s.setIntr v).regs = s.regs := rfl
@[simp] theorem State.setIntr_eip (v : Intr) : (s.setIntr v).eip = s.eip := rfl
@[simp] theorem State.setIntr_flags (v : Intr) : (s.setIntr v).flags = s.flags := rfl
@[simp] theorem State.setIntr_segs (v : Intr) : (s.setIntr v).segs = s.segs := rfl
@[simp] theorem State.setIntr_sys (v : Intr) : (s.setIntr v).sys = s.sys := rfl
@[simp] theorem State.setIntr_intr (v : Intr) : (s.setIntr v).intr = v := rfl
@[simp] theorem State.setIntr_pfx (v : Intr) : (s.setIntr v).pfx = s.pfx := rfl
@[simp] theorem State.setIntr_ctl (v : Intr) : (s.setIntr v).ctl = s.ctl := rfl
@[simp] theorem State.setIntr_mem (v : Intr) : (s.setIntr v).mem = s.mem := rfl
@[simp] theorem State.setIntr_ports (v : Intr) : (s.setIntr v).ports = s.ports := rfl
@[simp] theorem State.setIntr_draws (v : Intr) : (s.setIntr v).draws = s.draws := rfl
@[simp] theorem State.setIntr_io (v : Intr) : (s.setIntr v).io = s.io := rfl
@[simp] theorem State.setIntr_cfg (v : Intr) : (s.setIntr v).cfg = s.cfg := rfl

/-! ### setPfx -/

@[simp] theorem State.setPfx_regs (v : Pfx) : (s.setPfx v).regs = s.regs := rfl
@[simp] theorem State.setPfx_eip (v : Pfx) : (s.setPfx v).eip = s.eip := rfl
@[simp] theorem State.setPfx_flags (v : Pfx) : (s.setPfx v).flags = s.flags := rfl
@[simp] theorem State.setPfx_segs (v : Pfx) : (s.setPfx v).segs = s.segs := rfl
@[simp] theorem State.setPfx_sys (v : Pfx) : (s.setPfx v).sys = s.sys := rfl
@[simp] theorem State.setPfx_intr (v : Pfx) : (s.setPfx v).intr = s.intr := rfl
@[simp] theorem State.setPfx_pfx (v : Pfx) : (s.setPfx v).pfx = v := rfl
@[simp] theorem State.setPfx_ctl (v : Pfx) : (s.setPfx v).ctl = s.ctl := rfl
@[simp] theorem State.setPfx_mem (v : Pfx) : (s.setPfx v).mem = s.mem := rfl
@[simp] theorem State.setPfx_ports (v : Pfx) : (s.setPfx v).ports = s.ports := rfl
@[simp] theorem State.setPfx_draws (v : Pfx) : (s.setPfx v).draws = s.draws := rfl
@[simp] theorem State.setPfx_io (v : Pfx) : (s.setPfx v).io = s.io := rfl
@[simp] theorem State.setPfx_cfg (v : Pfx) : (s.setPfx v).cfg = s.cfg := rfl

/-! ### setCtl -/

@[simp] theorem State.setCtl_regs (v : Ctl) : (s.setCtl v).regs = s.regs := rfl
@[simp] theorem State.setCtl_eip (v : Ctl) : (s.setCtl v).eip = s.eip := rfl
@[simp] theorem State.setCtl_flags (v : Ctl) : (s.setCtl v).flags = s.flags := rfl
@[simp] theorem State.setCtl_segs (v : Ctl) : (s.setCtl v).segs = s.segs := rfl
@[simp] theorem State.setCtl_sys (v : Ctl) : (s.setCtl v).sys = s.sys := rfl
@[simp] theorem State.setCtl_intr (v : Ctl) : (s.setCtl v).intr = s.intr := rfl
@[simp] theorem State.setCtl_pfx (v : Ctl) : (s.setCtl v).pfx = s.pfx := rfl
@[simp] theorem State.setCtl_ctl (v : Ctl) : (s.setCtl v).ctl = v := rfl
@[simp] theorem State.setCtl_mem (v : Ctl) : (s.setCtl v).mem = s.mem := rfl
@[simp] theorem State.setCtl_ports (v : Ctl) : (s.setCtl v).ports = s.ports := rfl
@[simp] theorem State.setCtl_draws (v : Ctl) : (s.setCtl v).draws = s.draws := rfl
@[simp] theorem State.setCtl_io (v : Ctl) : (s.setCtl v).io = s.io := rfl
@[simp] theorem State.setCtl_cfg (v : Ctl) : (s.setCtl v).cfg = s.cfg := rfl

/-! ### setMem -/

@[simp] theorem State.setMem_regs (v : Memory) : (s.setMem v).regs = s.regs := rfl
@[simp] theorem State.setMem_eip (v : Memory) : (s.setMem v).eip = s.eip := rfl
@[simp] theorem State.setMem_flags (v : Memory) : (s.setMem v).flags = s.flags := rfl
@[simp] theorem State.setMem_segs (v : Memory) : (s.setMem v).segs = s.segs := rfl
@[simp] theorem State.setMem_sys (v : Memory) : (s.setMem v).sys = s.sys := rfl
@[simp] theorem State.setMem_intr (v : Memory) : (s.setMem v).intr = s.intr := rfl
@[simp] theorem State.setMem_pfx (v : Memory) : (s.setMem v).pfx = s.pfx := rfl
@[simp] theorem State.setMem_ctl (v : Memory) : (s.setMem v).ctl = s.ctl := rfl
@[simp] theorem State.setMem_mem (v : Memory) : (s.setMem v).mem = v := rfl
@[simp] theorem State.setMem_ports (v : Memory) : (s.setMem v).ports = s.ports := rfl
@[simp] theorem State.setMem_draws (v : Memory) : (s.setMem v).draws = s.draws := rfl
@[simp] theorem State.setMem_io (v : Memory) : (s.setMem v).io = s.io := rfl
@[simp] theorem State.setMem_cfg (v : Memory) : (s.setMem v).cfg = s.cfg := rfl

/-! ### setPorts -/

@[simp] theorem State.setPorts_regs (v : Ports) : (s.setPorts v).regs = s.regs := rfl
@[simp] theorem State.setPorts_eip (v : Ports) : (s.setPorts v).eip = s.eip := rfl
@[simp] theorem State.setPorts_flags (v : Ports) : (s.setPorts v).flags = s.flags := rfl
@[simp] theorem State.setPorts_segs (v : Ports) : (s.setPorts v).segs = s.segs := rfl
@[simp] theorem State.setPorts_sys (v : Ports) : (s.setPorts v).sys = s.sys := rfl
@[simp] theorem State.setPorts_intr (v : Ports) : (s.setPorts v).intr = s.intr := rfl
@[simp] theorem State.setPorts_pfx (v : Ports) : (s.setPorts v).pfx = s.pfx := rfl
@[simp] theorem State.setPorts_ctl (v : Ports) : (s.setPorts v).ctl = s.ctl := rfl
@[simp] theorem State.setPorts_mem (v : Ports) : (s.setPorts v).mem = s.mem := rfl
@[simp] theorem State.setPorts_ports (v : Ports) : (s.setPorts v).ports = v := rfl
@[simp] theorem State.setPorts_draws (v : Ports) : (s.setPorts v).draws = s.draws := rfl
@[simp] theorem State.setPorts_io (v : Ports) : (s.setPorts v).io = s.io := rfl
@[simp] theorem State.setPorts_cfg (v : Ports) : (s.setPorts v).cfg = s.cfg := rfl

/-! ### setDraws -/

@[simp] theorem State.setDraws_regs (v : Nat) : (s.setDraws v).regs = s.regs := rfl
@[simp] theorem State.setDraws_eip (v : Nat) : (s.setDraws v).eip = s.eip := rfl
@[simp] theorem State.setDraws_flags (v : Nat) : (s.setDraws v).flags = s.flags := rfl
@[simp] theorem State.setDraws_segs (v : Nat) : (s.setDraws v).segs = s.segs := rfl
@[simp] theorem State.setDraws_sys (v : Nat) : (s.setDraws v).sys = s.sys := rfl
@[simp] theorem State.setDraws_intr (v : Nat) : (s.setDraws v).intr = s.intr := rfl
@[simp] theorem State.setDraws_pfx (v : Nat) : (s.setDraws v).pfx = s.pfx := rfl
@[simp] theorem State.setDraws_ctl (v : Nat) : (s.setDraws v).ctl = s.ctl := rfl
@[simp] theorem State.setDraws_mem (v : Nat) : (s.setDraws v).mem = s.mem := rfl
@[simp] theorem State.setDraws_ports (v : Nat) : (s.setDraws v).ports = s.ports := rfl
@[simp] theorem State.setDraws_draws (v : Nat) : (s.setDraws v).draws = v := rfl
@[simp] theorem State.setDraws_io (v : Nat) : (s.setDraws v).io = s.io := rfl
@[simp] theorem State.setDraws_cfg (v : Nat) : (s.setDraws v).cfg = s.cfg := rfl

/-! ### setReg -/

@[simp] theorem State.setReg_regs (w : Width) (i : Num8) (v : BitVec w.bits) :
    (s.setReg w i v).regs = s.regs.setRn w i v := rfl
@[simp] theorem State.setReg_eip (w : Width) (i : Num8) (v : BitVec w.bits) : (s.setReg w i v).eip = s.eip := rfl
@[simp] theorem State.setReg_flags (w : Width) (i : Num8) (v : BitVec w.bits) :
    (s.setReg w i v).flags = s.flags := rfl
@[simp] theorem State.setReg_segs (w : Width) (i : Num8) (v : BitVec w.bits) : (s.setReg w i v).segs = s.segs := rfl
@[simp] theorem State.setReg_sys (w : Width) (i : Num8) (v : BitVec w.bits) : (s.setReg w i v).sys = s.sys := rfl
@[simp] theorem State.setReg_intr (w : Width) (i : Num8) (v : BitVec w.bits) : (s.setReg w i v).intr = s.intr := rfl
@[simp] theorem State.setReg_pfx (w : Width) (i : Num8) (v : BitVec w.bits) : (s.setReg w i v).pfx = s.pfx := rfl
@[simp] theorem State.setReg_ctl (w : Width) (i : Num8) (v : BitVec w.bits) : (s.setReg w i v).ctl = s.ctl := rfl
@[simp] theorem State.setReg_mem (w : Width) (i : Num8) (v : BitVec w.bits) : (s.setReg w i v).mem = s.mem := rfl
@[simp] theorem State.setReg_ports (w : Width) (i : Num8) (v : BitVec w.bits) :
    (s.setReg w i v).ports = s.ports := rfl
@[simp] theorem State.setReg_draws (w : Width) (i : Num8) (v : BitVec w.bits) :
    (s.setReg w i v).draws = s.draws := rfl
@[simp] theorem State.setReg_io (w : Width) (i : Num8) (v : BitVec w.bits) : (s.setReg w i v).io = s.io := rfl
@[simp] theorem State.setReg_cfg (w : Width) (i : Num8) (v : BitVec w.bits) : (s.setReg w i v).cfg = s.cfg := rfl

/-! ### adjustSp -/

@[simp] theorem State.adjustSp_regs (k : Word) : (s.adjustSp k).regs = s.withSp (s.sp + k) := rfl
@[simp] theorem State.adjustSp_eip (k : Word) : (s.adjustSp k).eip = s.eip := rfl
@[simp] theorem State.adjustSp_flags (k : Word) : (s.adjustSp k).flags = s.flags := rfl
@[simp] theorem State.adjustSp_segs (k : Word) : (s.adjustSp k).segs = s.segs := rfl
@[simp] theorem State.adjustSp_sys (k : Word) : (s.adjustSp k).sys = s.sys := rfl
@[simp] theorem State.adjustSp_intr (k : Word) : (s.adjustSp k).intr = s.intr := rfl
@[simp] theorem State.adjustSp_pfx (k : Word) : (s.adjustSp k).pfx = s.pfx := rfl
@[simp] theorem State.adjustSp_ctl (k : Word) : (s.adjustSp k).ctl = s.ctl := rfl
@[simp] theorem State.adjustSp_mem (k : Word) : (s.adjustSp k).mem = s.mem := rfl
@[simp] theorem State.adjustSp_ports (k : Word) : (s.adjustSp k).ports = s.ports := rfl
@[simp] theorem State.adjustSp_draws (k : Word) : (s.adjustSp k).draws = s.draws := rfl
@[simp] theorem State.adjustSp_io (k : Word) : (s.adjustSp k).io = s.io := rfl
@[simp] theorem State.adjustSp_cfg (k : Word) : (s.adjustSp k).cfg = s.cfg := rfl

/-! ### post -/

@[simp] theorem State.post_regs (p : Pending) : (s.post p).regs = s.regs := rfl
@[simp] theorem State.post_eip (p : Pending) : (s.post p).eip = s.eip := rfl
@[simp] theorem State.post_flags (p : Pending) : (s.post p).flags = s.flags := rfl
@[simp] theorem State.post_segs (p : Pending) : (s.post p).segs = s.segs := rfl
@[simp] theorem State.post_sys (p : Pending) : (s.post p).sys = s.sys := rfl
@[simp] theorem State.post_intr (p : Pending) :
    (s.post p).intr = { s.intr with pending := some (s.intr.pending.getD p) } := rfl
@[simp] theorem State.post_pfx (p : Pending) : (s.post p).pfx = s.pfx := rfl
@[simp] theorem State.post_ctl (p : Pending) : (s.post p).ctl = s.ctl := rfl
@[simp] theorem State.post_mem (p : Pending) : (s.post p).mem = s.mem := rfl
@[simp] theorem State.post_ports (p : Pending) : (s.post p).ports = s.ports := rfl
@[simp] theorem State.post_draws (p : Pending) : (s.post p).draws = s.draws := rfl
@[simp] theorem State.post_io (p : Pending) : (s.post p).io = s.io := rfl
@[simp] theorem State.post_cfg (p : Pending) : (s.post p).cfg = s.cfg := rfl

/-! ### raise -/

@[simp] theorem State.raise_regs (x : Exn) : (s.raise x).regs = s.regs := rfl
@[simp] theorem State.raise_eip (x : Exn) : (s.raise x).eip = s.eip := rfl
@[simp] theorem State.raise_flags (x : Exn) : (s.raise x).flags = s.flags := rfl
@[simp] theorem State.raise_segs (x : Exn) : (s.raise x).segs = s.segs := rfl
@[simp] theorem State.raise_sys (x : Exn) : (s.raise x).sys = s.sys := rfl
@[simp] theorem State.raise_intr (x : Exn) :
    (s.raise x).intr = { s.intr with pending := some (s.intr.pending.getD x.pending) } := rfl
@[simp] theorem State.raise_pfx (x : Exn) : (s.raise x).pfx = s.pfx := rfl
@[simp] theorem State.raise_ctl (x : Exn) : (s.raise x).ctl = s.ctl := rfl
@[simp] theorem State.raise_mem (x : Exn) : (s.raise x).mem = s.mem := rfl
@[simp] theorem State.raise_ports (x : Exn) : (s.raise x).ports = s.ports := rfl
@[simp] theorem State.raise_draws (x : Exn) : (s.raise x).draws = s.draws := rfl
@[simp] theorem State.raise_io (x : Exn) : (s.raise x).io = s.io := rfl
@[simp] theorem State.raise_cfg (x : Exn) : (s.raise x).cfg = s.cfg := rfl

/-! ### haltWith -/

@[simp] theorem State.haltWith_regs (r : BitVec 8) : (s.haltWith r).regs = s.regs := rfl
@[simp] theorem State.haltWith_eip (r : BitVec 8) : (s.haltWith r).eip = s.eip := rfl
@[simp] theorem State.haltWith_flags (r : BitVec 8) : (s.haltWith r).flags = s.flags := rfl
@[simp] theorem State.haltWith_segs (r : BitVec 8) : (s.haltWith r).segs = s.segs := rfl
@[simp] theorem State.haltWith_sys (r : BitVec 8) : (s.haltWith r).sys = s.sys := rfl
@[simp] theorem State.haltWith_intr (r : BitVec 8) : (s.haltWith r).intr = s.intr := rfl
@[simp] theorem State.haltWith_pfx (r : BitVec 8) : (s.haltWith r).pfx = s.pfx := rfl
@[simp] theorem State.haltWith_ctl (r : BitVec 8) :
    (s.haltWith r).ctl = { s.ctl with halted := true, reason := s.ctl.reason ||| r } := rfl
@[simp] theorem State.haltWith_mem (r : BitVec 8) : (s.haltWith r).mem = s.mem := rfl
@[simp] theorem State.haltWith_ports (r : BitVec 8) : (s.haltWith r).ports = s.ports := rfl
@[simp] theorem State.haltWith_draws (r : BitVec 8) : (s.haltWith r).draws = s.draws := rfl
@[simp] theorem State.haltWith_io (r : BitVec 8) : (s.haltWith r).io = s.io := rfl
@[simp] theorem State.haltWith_cfg (r : BitVec 8) : (s.haltWith r).cfg = s.cfg := rfl

/-! ### drew -/

@[simp] theorem State.drew_regs : (s.drew).regs = s.regs := rfl
@[simp] theorem State.drew_eip : (s.drew).eip = s.eip := rfl
@[simp] theorem State.drew_flags : (s.drew).flags = s.flags := rfl
@[simp] theorem State.drew_segs : (s.drew).segs = s.segs := rfl
@[simp] theorem State.drew_sys : (s.drew).sys = s.sys := rfl
@[simp] theorem State.drew_intr : (s.drew).intr = s.intr := rfl
@[simp] theorem State.drew_pfx : (s.drew).pfx = s.pfx := rfl
@[simp] theorem State.drew_ctl : (s.drew).ctl = s.ctl := rfl
@[simp] theorem State.drew_mem : (s.drew).mem = s.mem := rfl
@[simp] theorem State.drew_ports : (s.drew).ports = s.ports := rfl
@[simp] theorem State.drew_draws : (s.drew).draws = s.draws + 1 := rfl
@[simp] theorem State.drew_io : (s.drew).io = s.io := rfl
@[simp] theorem State.drew_cfg : (s.drew).cfg = s.cfg := rfl

/-! ### stepIndex -/

@[simp] theorem State.stepIndex_regs (w : Width) (i : Num8) :
    (s.stepIndex w i).regs = s.withAsReg i (s.asReg i + s.delta w) := rfl
@[simp] theorem State.stepIndex_eip (w : Width) (i : Num8) : (s.stepIndex w i).eip = s.eip := rfl
@[simp] theorem State.stepIndex_flags (w : Width) (i : Num8) : (s.stepIndex w i).flags = s.flags := rfl
@[simp] theorem State.stepIndex_segs (w : Width) (i : Num8) : (s.stepIndex w i).segs = s.segs := rfl
@[simp] theorem State.stepIndex_sys (w : Width) (i : Num8) : (s.stepIndex w i).sys = s.sys := rfl
@[simp] theorem State.stepIndex_intr (w : Width) (i : Num8) : (s.stepIndex w i).intr = s.intr := rfl
@[simp] theorem State.stepIndex_pfx (w : Width) (i : Num8) : (s.stepIndex w i).pfx = s.pfx := rfl
@[simp] theorem State.stepIndex_ctl (w : Width) (i : Num8) : (s.stepIndex w i).ctl = s.ctl := rfl
@[simp] theorem State.stepIndex_mem (w : Width) (i : Num8) : (s.stepIndex w i).mem = s.mem := rfl
@[simp] theorem State.stepIndex_ports (w : Width) (i : Num8) : (s.stepIndex w i).ports = s.ports := rfl
@[simp] theorem State.stepIndex_draws (w : Width) (i : Num8) : (s.stepIndex w i).draws = s.draws := rfl
@[simp] theorem State.stepIndex_io (w : Width) (i : Num8) : (s.stepIndex w i).io = s.io := rfl
@[simp] theorem State.stepIndex_cfg (w : Width) (i : Num8) : (s.stepIndex w i).cfg = s.cfg := rfl

/-! ### branch -/

@[simp] theorem State.branch_regs (taken : Bool) (rel : Rel) : (s.branch taken rel).regs = s.regs := rfl
@[simp] theorem State.branch_eip (taken : Bool) (rel : Rel) :
    (s.branch taken rel).eip = if taken then s.relTarget rel else s.eip := rfl
@[simp] theorem State.branch_flags (taken : Bool) (rel : Rel) : (s.branch taken rel).flags = s.flags := rfl
@[simp] theorem State.branch_segs (taken : Bool) (rel : Rel) : (s.branch taken rel).segs = s.segs := rfl
@[simp] theorem State.branch_sys (taken : Bool) (rel : Rel) : (s.branch taken rel).sys = s.sys := rfl
@[simp] theorem State.branch_intr (taken : Bool) (rel : Rel) : (s.branch taken rel).intr = s.intr := rfl
@[simp] theorem State.branch_pfx (taken : Bool) (rel : Rel) : (s.branch taken rel).pfx = s.pfx := rfl
@[simp] theorem State.branch_ctl (taken : Bool) (rel : Rel) : (s.branch taken rel).ctl = s.ctl := rfl
@[simp] theorem State.branch_mem (taken : Bool) (rel : Rel) : (s.branch taken rel).mem = s.mem := rfl
@[simp] theorem State.branch_ports (taken : Bool) (rel : Rel) : (s.branch taken rel).ports = s.ports := rfl
@[simp] theorem State.branch_draws (taken : Bool) (rel : Rel) : (s.branch taken rel).draws = s.draws := rfl
@[simp] theorem State.branch_io (taken : Bool) (rel : Rel) : (s.branch taken rel).io = s.io := rfl
@[simp] theorem State.branch_cfg (taken : Bool) (rel : Rel) : (s.branch taken rel).cfg = s.cfg := rfl

/-! ### portTouch -/

@[simp] theorem State.portTouch_regs (w : Width) (p : BitVec 16) : (s.portTouch w p).regs = s.regs := rfl
@[simp] theorem State.portTouch_eip (w : Width) (p : BitVec 16) : (s.portTouch w p).eip = s.eip := rfl
@[simp] theorem State.portTouch_flags (w : Width) (p : BitVec 16) : (s.portTouch w p).flags = s.flags := rfl
@[simp] theorem State.portTouch_segs (w : Width) (p : BitVec 16) : (s.portTouch w p).segs = s.segs := rfl
@[simp] theorem State.portTouch_sys (w : Width) (p : BitVec 16) : (s.portTouch w p).sys = s.sys := rfl
@[simp] theorem State.portTouch_intr (w : Width) (p : BitVec 16) : (s.portTouch w p).intr = s.intr := rfl
@[simp] theorem State.portTouch_pfx (w : Width) (p : BitVec 16) : (s.portTouch w p).pfx = s.pfx := rfl
@[simp] theorem State.portTouch_ctl (w : Width) (p : BitVec 16) : (s.portTouch w p).ctl = s.ctl := rfl
@[simp] theorem State.portTouch_ports (w : Width) (p : BitVec 16) :
    (s.portTouch w p).ports = s.ports.countReads (portSpan w.bytes p) := rfl
@[simp] theorem State.portTouch_draws (w : Width) (p : BitVec 16) : (s.portTouch w p).draws = s.draws + 4 := rfl
@[simp] theorem State.portTouch_io (w : Width) (p : BitVec 16) : (s.portTouch w p).io = s.io := rfl
@[simp] theorem State.portTouch_cfg (w : Width) (p : BitVec 16) : (s.portTouch w p).cfg = s.cfg := rfl

/-! ### portWrite -/

@[simp] theorem State.portWrite_regs (w : Width) (p : BitVec 16) (v : BitVec w.bits) :
    (s.portWrite w p v).regs = s.regs := rfl
@[simp] theorem State.portWrite_eip (w : Width) (p : BitVec 16) (v : BitVec w.bits) :
    (s.portWrite w p v).eip = s.eip := rfl
@[simp] theorem State.portWrite_flags (w : Width) (p : BitVec 16) (v : BitVec w.bits) :
    (s.portWrite w p v).flags = s.flags := rfl
@[simp] theorem State.portWrite_segs (w : Width) (p : BitVec 16) (v : BitVec w.bits) :
    (s.portWrite w p v).segs = s.segs := rfl
@[simp] theorem State.portWrite_sys (w : Width) (p : BitVec 16) (v : BitVec w.bits) :
    (s.portWrite w p v).sys = s.sys := rfl
@[simp] theorem State.portWrite_intr (w : Width) (p : BitVec 16) (v : BitVec w.bits) :
    (s.portWrite w p v).intr = s.intr := rfl
@[simp] theorem State.portWrite_pfx (w : Width) (p : BitVec 16) (v : BitVec w.bits) :
    (s.portWrite w p v).pfx = s.pfx := rfl
@[simp] theorem State.portWrite_ctl (w : Width) (p : BitVec 16) (v : BitVec w.bits) :
    (s.portWrite w p v).ctl = s.ctl := rfl
@[simp] theorem State.portWrite_draws (w : Width) (p : BitVec 16) (v : BitVec w.bits) :
    (s.portWrite w p v).draws = s.draws := rfl
@[simp] theorem State.portWrite_io (w : Width) (p : BitVec 16) (v : BitVec w.bits) :
    (s.portWrite w p v).io = s.io := rfl
@[simp] theorem State.portWrite_cfg (w : Width) (p : BitVec 16) (v : BitVec w.bits) :
    (s.portWrite w p v).cfg = s.cfg := rfl

/-! ### Accesses: the paged memory answers them where no handler is installed (20_memory R124) -/

section Access

variable {s}

@[simp] theorem memVal_paged (h : s.io = none) (w : Width) (a : Word) : s.memVal w a = s.mem.val w a := by
  simp [State.memVal, h]

@[simp] theorem memOk_paged (h : s.io = none) (w : Width) (a : Word) : s.memOk w a = s.mem.ok w a := by
  simp [State.memOk, h]

@[simp] theorem memTouch_paged (h : s.io = none) (w : Width) (a : Word) :
    s.memTouch w a = s.setMem (s.mem.touchRead w a) := by
  simp [State.memTouch, h]

@[simp] theorem memStore_paged (h : s.io = none) (w : Width) (a : Word) (v : BitVec w.bits) :
    s.memStore w a v = s.setMem (s.mem.store w a v) := by
  simp [State.memStore, h]

@[simp] theorem fetchRefused_paged (h : s.io = none) (a : Word) : s.fetchRefused a = s.mem.fetchRefused a := by
  simp [State.fetchRefused, h]

@[simp] theorem fetchVal_paged (h : s.io = none) (a : Word) : s.fetchVal a = s.mem.fetchByte a := by
  simp [State.fetchVal, h]

@[simp] theorem fetchTouch_paged (h : s.io = none) (a : Word) : s.fetchTouch a = s.setMem (s.mem.touch .fetch a) := by
  simp [State.fetchTouch, h]

@[simp] theorem segVal_paged (h : s.io = none) (w : Width) (g : Seg) (off : Word) :
    s.segVal w g off = s.mem.val w (s.lin g off) := by
  simp [State.segVal, h]

@[simp] theorem segTouch_paged (h : s.io = none) (w : Width) (g : Seg) (off : Word) :
    s.segTouch w g off = s.setMem (s.mem.touchRead w (s.lin g off)) := by
  simp [State.segTouch, h]

@[simp] theorem segStore_paged (h : s.io = none) (w : Width) (g : Seg) (off : Word) (v : BitVec w.bits) :
    s.segStore w g off v = s.setMem (s.mem.store w (s.lin g off) v) := by
  simp [State.segStore, h]

@[simp] theorem push_paged (h : s.io = none) (w : Width) (v : BitVec w.bits) :
    s.push w v = (s.setMem (s.mem.store w (s.lin .ss (s.pushOff w)) v)).setRegs (s.withSp (s.pushOff w)) := by
  simp [State.push, State.withSp, h]

@[simp] theorem popped_paged (h : s.io = none) (w : Width) :
    s.popped w =
      (s.setMem (s.mem.touchRead w (s.lin .ss s.sp))).setRegs (s.withSp (s.sp + BitVec.ofNat 32 w.bytes)) := by
  simp [State.popped, State.withSp, State.sp, h]

@[simp] theorem placeTouch_paged (h : s.io = none) (w : Width) (p : Place) :
    s.placeTouch w p =
      s.setMem (match p with
        | .reg _ => s.mem
        | .mem g off => s.mem.touchRead w (s.lin g off)) := by
  cases p
  · rfl
  · simp [State.placeTouch, h]

@[simp] theorem placeStore_paged (h : s.io = none) (w : Width) (p : Place) (v : BitVec w.bits) :
    s.placeStore w p v =
      (s.setRegs (match p with
        | .reg r => s.regs.setRn w r v
        | .mem _ _ => s.regs)).setMem (match p with
        | .reg _ => s.mem
        | .mem g off => s.mem.store w (s.lin g off) v) := by
  cases p
  · rfl
  · exact segStore_paged h w _ _ v

@[simp] theorem rmTouch_paged (h : s.io = none) (w : Width) (rm : RM) :
    s.rmTouch w rm =
      s.setMem (match s.place rm with
        | .reg _ => s.mem
        | .mem g off => s.mem.touchRead w (s.lin g off)) :=
  placeTouch_paged h w _

@[simp] theorem eaVal_paged (h : s.io = none) (w : Width) (m : MemRef) (k : Nat) :
    s.eaVal w m k = s.mem.val w (s.lin (s.eaSeg m) (s.eaNext m k)) :=
  segVal_paged h w _ _

@[simp] theorem eaTouch_paged (h : s.io = none) (w : Width) (m : MemRef) (k : Nat) :
    s.eaTouch w m k = s.setMem (s.mem.touchRead w (s.lin (s.eaSeg m) (s.eaNext m k))) :=
  segTouch_paged h w _ _

@[simp] theorem stackVal_paged (h : s.io = none) (w : Width) (k : Nat) :
    s.stackVal w k = s.mem.val w (s.lin .ss (s.stackOff w k)) :=
  segVal_paged h w _ _

@[simp] theorem stackTouch_paged (h : s.io = none) (w : Width) (k : Nat) :
    s.stackTouch w k = s.setMem (s.mem.touchRead w (s.lin .ss (s.stackOff w k))) :=
  segTouch_paged h w _ _

@[simp] theorem repFuel_paged (h : s.io = none) : s.repFuel = (s.asReg .n1).toNat := by
  simp [State.repFuel, h]

end Access

end Sys2Proof.Machine
end

