-- ==== Sys2Proof/Laws/Memory.lean ====
section
/-! SUPPORT. The sparse maps: a key holds what was written to it last and every operation keeps the canonical form;
and from them what a read, a fetch and a write do to memory, byte by byte. -/

namespace Sys2Proof.Machine

/-! ### Sparse maps -/

section Sparse

variable {α : Type} [DecidableEq α] {d : α} {bound : Nat}

theorem Sparse.wfFrom_cons {lo k : Nat} {v : α} {t : List (Nat × α)} :
    Sparse.wfFrom d bound lo ((k, v) :: t) = true ↔
      lo ≤ k ∧ k < bound ∧ v ≠ d ∧ Sparse.wfFrom d bound (k + 1) t = true := by
  simp [Sparse.wfFrom, and_assoc]

theorem Sparse.wfFrom_le {lo lo' : Nat} (h : lo' ≤ lo) :
    ∀ {l : List (Nat × α)}, Sparse.wfFrom d bound lo l = true → Sparse.wfFrom d bound lo' l = true
  | [], _ => rfl
  | (k, v) :: t, hl => by
    rw [Sparse.wfFrom_cons] at hl ⊢
    exact ⟨h.trans hl.1, hl.2⟩

theorem Sparse.get_below {a : Nat} :
    ∀ {lo : Nat} {l : List (Nat × α)}, Sparse.wfFrom d bound lo l = true → a < lo → Sparse.get d l a = d
  | _, [], _, _ => rfl
  | lo, (k, v) :: t, hl, ha => by
    rw [Sparse.wfFrom_cons] at hl
    have hk : k ≠ a := by omega
    simp only [Sparse.get, hk, if_false]
    exact Sparse.get_below hl.2.2.2 (by omega)

theorem Sparse.wfFrom_set {a : Nat} {v : α} (ha : a < bound) :
    ∀ {lo : Nat} {l : List (Nat × α)}, lo ≤ a → Sparse.wfFrom d bound lo l = true →
      Sparse.wfFrom d bound lo (Sparse.set d l a v) = true
  | lo, [], hlo, _ => by
    by_cases hv : v = d <;> simp [Sparse.set, hv, Sparse.wfFrom, hlo, ha]
  | lo, (k, w) :: t, hlo, hl => by
    have hl' := hl
    rw [Sparse.wfFrom_cons] at hl
    obtain ⟨h1, h2, h3, h4⟩ := hl
    simp only [Sparse.set]
    split_ifs with c1 c2 c3 c4
    · exact Sparse.wfFrom_cons.2 ⟨h1, h2, h3, Sparse.wfFrom_set ha (by omega) h4⟩
    · exact Sparse.wfFrom_le (by omega) h4
    · exact Sparse.wfFrom_cons.2 ⟨by omega, ha, c3, Sparse.wfFrom_le (by omega) h4⟩
    · exact hl'
    · exact Sparse.wfFrom_cons.2 ⟨by omega, ha, c4, Sparse.wfFrom_cons.2 ⟨by omega, h2, h3, h4⟩⟩

theorem Sparse.get_set {a b : Nat} {v : α} :
    ∀ {lo : Nat} {l : List (Nat × α)}, Sparse.wfFrom d bound lo l = true →
      Sparse.get d (Sparse.set d l a v) b = if b = a then v else Sparse.get d l b
  | lo, [], _ => by
    by_cases hv : v = d
    · simp [Sparse.set, hv, Sparse.get]
    · simp [Sparse.set, hv, Sparse.get, eq_comm]
  | lo, (k, w) :: t, hl => by
    rw [Sparse.wfFrom_cons] at hl
    obtain ⟨h1, h2, h3, h4⟩ := hl
    by_cases hb : b = a
    · subst hb
      simp only [Sparse.set, if_true]
      split_ifs with c1 c2 c3 c4
      · simp [Sparse.get, Sparse.get_set h4, show k ≠ b by omega]
      · rw [Sparse.get_below h4 (by omega), c3]
      · simp [Sparse.get]
      · rw [c4]
        simp only [Sparse.get, c2, if_false]
        exact Sparse.get_below h4 (by omega)
      · simp [Sparse.get]
    · simp only [Sparse.set, hb, if_false]
      split_ifs with c1 c2 c3 c4
      · by_cases hk : k = b
        · simp [Sparse.get, hk]
        · simp [Sparse.get, hk, Sparse.get_set h4, hb]
      · simp [Sparse.get, show k ≠ b by omega]
      · simp [Sparse.get, show k ≠ b by omega, show a ≠ b by omega]
      · rfl
      · simp [Sparse.get, show a ≠ b by omega]

end Sparse

/-! ### One byte -/

section Byte

variable {m : Memory} {a b : Word} {k j : Access} {v : Byte}

theorem Memory.wf_iff :
    m.wf = true ↔ Sparse.wfFrom 0 (2 ^ 32) 0 m.data = true ∧ Sparse.wfFrom 0 (2 ^ 32) 0 m.attr = true := by
  simp [Memory.wf, Sparse.wf]

theorem Memory.wf_setAttr (h : m.wf = true) : (m.setAttr a v).wf = true := by
  rw [Memory.wf_iff] at h ⊢
  exact ⟨h.1, Sparse.wfFrom_set a.isLt (Nat.zero_le _) h.2⟩

theorem Memory.wf_setData (h : m.wf = true) : (m.setData a v).wf = true := by
  rw [Memory.wf_iff] at h ⊢
  exact ⟨Sparse.wfFrom_set a.isLt (Nat.zero_le _) h.1, h.2⟩

theorem Memory.wf_touch (h : m.wf = true) : (m.touch k a).wf = true := by
  unfold Memory.touch
  split
  · exact Memory.wf_setAttr h
  · exact Memory.wf_setAttr (m := m) h

theorem Memory.wf_writeByte (h : m.wf = true) : (m.writeByte a v).wf = true := by
  unfold Memory.writeByte
  split
  · exact Memory.wf_setData (Memory.wf_touch h)
  · exact Memory.wf_touch h

@[simp] theorem Memory.dataAt_setAttr : (m.setAttr a v).dataAt b = m.dataAt b := rfl
@[simp] theorem Memory.attrAt_setData : (m.setData a v).attrAt b = m.attrAt b := rfl
@[simp] theorem Memory.invalid_setAttr : (m.setAttr a v).invalid = m.invalid := rfl
@[simp] theorem Memory.invalid_setData : (m.setData a v).invalid = m.invalid := rfl

theorem Memory.attrAt_setAttr (h : m.wf = true) :
    (m.setAttr a v).attrAt b = if b = a then v else m.attrAt b := by
  rw [Memory.wf_iff] at h
  simp only [Memory.attrAt, Memory.setAttr, Sparse.get_set h.2, BitVec.toNat_inj]

theorem Memory.dataAt_setData (h : m.wf = true) :
    (m.setData a v).dataAt b = if b = a then v else m.dataAt b := by
  rw [Memory.wf_iff] at h
  simp only [Memory.dataAt, Memory.setData, Sparse.get_set h.1, BitVec.toNat_inj]

@[simp] theorem Memory.dataAt_touch : (m.touch k a).dataAt b = m.dataAt b := by
  unfold Memory.touch
  split <;> rfl

@[simp] theorem Memory.data_touch : (m.touch k a).data = m.data := by
  unfold Memory.touch
  split <;> rfl

@[simp] theorem Memory.invalid_touch : (m.touch k a).invalid = (m.invalid || !m.permitted k a) := by
  unfold Memory.touch
  split <;> simp_all

/-- The one thing an access does to attributes: a mark on the byte accessed. -/
theorem Memory.attrAt_touch (h : m.wf = true) :
    (m.touch k a).attrAt b =
      if b = a then m.attrAt a ||| (if m.permitted k a then k.mark else 0x80) else m.attrAt b := by
  unfold Memory.touch
  split
  · exact Memory.attrAt_setAttr h
  · exact Memory.attrAt_setAttr (m := m) h

theorem perms_or_high (x y : Byte) (hy : y &&& 0x0F = 0) : (x ||| y) &&& 0x0F = x &&& 0x0F := by
  ext i hi
  have hyi := congrArg (fun z : Byte => z.getLsbD i) hy
  simp only [BitVec.getLsbD_and] at hyi
  interval_cases i <;> simp_all

theorem perms_or_write (x : Byte) : (x ||| 0x28) &&& 0x0F = (x &&& 0x0F) ||| 0x08 := by
  ext i hi
  interval_cases i <;> simp

theorem Memory.permitted_eq_perms : m.permitted k a = (m.perms a &&& k.need == k.need) := by
  cases k <;> simp only [Memory.permitted, Memory.perms, Access.need, BitVec.and_assoc] <;> rfl

/-- Reads and fetches change no permission nibble (20_memory R113, R115, R121). -/
theorem Memory.perms_touch (h : m.wf = true) (hk : k ≠ .write) : (m.touch k a).perms b = m.perms b := by
  unfold Memory.perms
  rw [Memory.attrAt_touch h]
  split
  · subst b
    apply perms_or_high
    cases k <;> simp_all <;> split <;> rfl
  · rfl

/-- A write sets VALID where it is permitted and changes no other bit of a permission nibble (20_memory R114, R121). -/
theorem Memory.perms_touch_write (h : m.wf = true) :
    (m.touch .write a).perms b =
      if b = a ∧ m.permitted .write a = true then m.perms b ||| 0x08 else m.perms b := by
  unfold Memory.perms
  rw [Memory.attrAt_touch h]
  by_cases hb : b = a
  · subst hb
    by_cases hp : m.permitted .write b = true
    · simpa [hp, Access.mark] using perms_or_write _
    · simpa [hp] using perms_or_high _ 0x80 rfl
  · simp [hb]

@[simp] theorem Memory.perms_setData : (m.setData a v).perms b = m.perms b := rfl

theorem Memory.perms_writeByte (h : m.wf = true) :
    (m.writeByte a v).perms b =
      if b = a ∧ m.permitted .write a = true then m.perms b ||| 0x08 else m.perms b := by
  unfold Memory.writeByte
  split
  · rw [Memory.perms_setData, Memory.perms_touch_write h]
  · exact Memory.perms_touch_write h

theorem Memory.dataAt_writeByte (h : m.wf = true) :
    (m.writeByte a v).dataAt b = if b = a ∧ m.permitted .write a = true then v else m.dataAt b := by
  unfold Memory.writeByte
  split
  · rename_i hp
    rw [Memory.dataAt_setData (Memory.wf_touch h)]
    simp [hp]
  · rename_i hp
    simp [hp]

@[simp] theorem Memory.invalid_writeByte : (m.writeByte a v).invalid = (m.invalid || !m.permitted .write a) := by
  unfold Memory.writeByte
  split <;> simp

/-- A permission nibble that is the same permits the same accesses. -/
theorem Memory.permitted_congr {m' : Memory} (h : m'.perms b = m.perms b) : m'.permitted j b = m.permitted j b := by
  rw [Memory.permitted_eq_perms, Memory.permitted_eq_perms, h]

/-- What a write permits and forbids afterwards: only a read or fetch that needed VALID can become permitted. -/
theorem Memory.permitted_write_of_perms_or {m' : Memory}
    (h : m'.perms b = m.perms b ∨ m'.perms b = m.perms b ||| 0x08) :
    m'.permitted .write b = m.permitted .write b := by
  rw [Memory.permitted_eq_perms, Memory.permitted_eq_perms]
  rcases h with h | h
  · rw [h]
  · rw [h]
    generalize m.perms b = x
    simp only [Access.need]
    congr 1
    ext i hi
    interval_cases i <;> simp

theorem Memory.readByte_congr {m' : Memory} (hp : m'.perms b = m.perms b) (hd : m'.dataAt b = m.dataAt b) :
    m'.readByte b = m.readByte b := by
  simp [Memory.readByte, Memory.permitted_congr hp, hd]

end Byte

/-! ### Several bytes -/

section Bytes

variable {m : Memory} {b : Word} {k : Access}

theorem Memory.wf_touchAll (h : m.wf = true) (as : List Word) : (m.touchAll k as).wf = true := by
  induction as generalizing m with
  | nil => exact h
  | cons a as ih => exact ih (Memory.wf_touch h)

theorem Memory.wf_writeAll (h : m.wf = true) (l : List (Word × Byte)) : (m.writeAll l).wf = true := by
  induction l generalizing m with
  | nil => exact h
  | cons c r ih => exact ih (Memory.wf_writeByte h)

theorem Memory.wf_touchRead (h : m.wf = true) (w : Width) (a : Word) : (m.touchRead w a).wf = true :=
  Memory.wf_touchAll h _

theorem Memory.wf_store (h : m.wf = true) (w : Width) (a : Word) (v : BitVec w.bits) : (m.store w a v).wf = true :=
  Memory.wf_writeAll h _

@[simp] theorem Memory.dataAt_touchAll (as : List Word) : (m.touchAll k as).dataAt b = m.dataAt b := by
  induction as generalizing m with
  | nil => rfl
  | cons a as ih => exact ih.trans Memory.dataAt_touch

theorem Memory.perms_touchAll (h : m.wf = true) (hk : k ≠ .write) (as : List Word) :
    (m.touchAll k as).perms b = m.perms b := by
  induction as generalizing m with
  | nil => rfl
  | cons a as ih => exact (ih (Memory.wf_touch h)).trans (Memory.perms_touch h hk)

@[simp] theorem Memory.dataAt_touchRead (w : Width) (a : Word) : (m.touchRead w a).dataAt b = m.dataAt b :=
  Memory.dataAt_touchAll _

theorem Memory.perms_touchRead (h : m.wf = true) (w : Width) (a : Word) : (m.touchRead w a).perms b = m.perms b :=
  Memory.perms_touchAll h (by decide) _

/-- Reading changes no byte a later read returns (20_memory R126). -/
theorem Memory.readByte_touchRead (h : m.wf = true) (w : Width) (a : Word) :
    (m.touchRead w a).readByte b = m.readByte b :=
  Memory.readByte_congr (Memory.perms_touchRead h w a) (Memory.dataAt_touchRead w a)

/-- Reading changes no value a later read returns (20_memory R126). -/
theorem Memory.val_touchRead (h : m.wf = true) (w : Width) (a : Word) (w' : Width) (a' : Word) :
    (m.touchRead w a).val w' a' = m.val w' a' := by
  cases w' <;> simp only [Memory.val, Memory.readByte_touchRead h]

/-- Reading changes no `ok` of a later read (20_memory R126). -/
theorem Memory.ok_touchRead (h : m.wf = true) (w : Width) (a : Word) (w' : Width) (a' : Word) :
    (m.touchRead w a).ok w' a' = m.ok w' a' :=
  congrArg _ (funext fun _ => Memory.permitted_congr (Memory.perms_touchRead h w a))

/-- A byte outside the written list keeps its data (20_memory R114). -/
theorem Memory.dataAt_writeAll_of_notMem (h : m.wf = true) (l : List (Word × Byte)) (hb : b ∉ l.map Prod.fst) :
    (m.writeAll l).dataAt b = m.dataAt b := by
  induction l generalizing m with
  | nil => rfl
  | cons c r ih =>
    simp only [List.map_cons, List.mem_cons, not_or] at hb
    rw [Memory.writeAll, ih (Memory.wf_writeByte h) hb.2, Memory.dataAt_writeByte h]
    simp [hb.1]

/-- A byte outside the written list keeps its permission nibble (20_memory R114, R121). -/
theorem Memory.perms_writeAll_of_notMem (h : m.wf = true) (l : List (Word × Byte)) (hb : b ∉ l.map Prod.fst) :
    (m.writeAll l).perms b = m.perms b := by
  induction l generalizing m with
  | nil => rfl
  | cons c r ih =>
    simp only [List.map_cons, List.mem_cons, not_or] at hb
    rw [Memory.writeAll, ih (Memory.wf_writeByte h) hb.2, Memory.perms_writeByte h]
    simp [hb.1]

/-- A write changes a permission nibble by nothing but VALID (20_memory R121). -/
theorem Memory.perms_writeAll (h : m.wf = true) (l : List (Word × Byte)) :
    (m.writeAll l).perms b = m.perms b ∨ (m.writeAll l).perms b = m.perms b ||| 0x08 := by
  induction l generalizing m with
  | nil => exact Or.inl rfl
  | cons c r ih =>
    have h2 : (m.writeByte c.1 c.2).perms b = m.perms b ∨ (m.writeByte c.1 c.2).perms b = m.perms b ||| 0x08 := by
      rw [Memory.perms_writeByte h]; split <;> simp
    rcases ih (Memory.wf_writeByte (a := c.1) (v := c.2) h) with h3 | h3 <;> rcases h2 with h2 | h2 <;>
      simp [Memory.writeAll, h3, h2, BitVec.or_assoc]

/-- A byte in the written list holds the value written, when the write is permitted (20_memory R114). -/
theorem Memory.dataAt_writeAll_of_mem (h : m.wf = true) {l : List (Word × Byte)} {v : Byte}
    (hn : (l.map Prod.fst).Nodup) (hm : (b, v) ∈ l) :
    (m.writeAll l).dataAt b = if m.permitted .write b then v else m.dataAt b := by
  induction l generalizing m with
  | nil => cases hm
  | cons c r ih =>
    obtain ⟨a, x⟩ := c
    simp only [List.map_cons, List.nodup_cons] at hn
    rw [Memory.writeAll]
    rcases List.mem_cons.1 hm with he | he
    · cases he
      rw [Memory.dataAt_writeAll_of_notMem (Memory.wf_writeByte h) r hn.1, Memory.dataAt_writeByte h]
      simp
    · have hba : b ≠ a := fun e => hn.1 (e ▸ List.mem_map.2 ⟨(b, v), he, rfl⟩)
      rw [ih (Memory.wf_writeByte h) hn.2 he, Memory.dataAt_writeByte h]
      have hp : (m.writeByte a x).permitted .write b = m.permitted .write b :=
        Memory.permitted_congr (by rw [Memory.perms_writeByte h]; simp [hba])
      simp [hp, hba]

theorem Memory.invalid_touchAll : ∀ (m : Memory) (as : List Word), m.invalid = true → (m.touchAll k as).invalid = true
  | _, [], h => h
  | m, a :: as, h => Memory.invalid_touchAll (m.touch k a) as (by simp [h])

theorem Memory.invalid_writeAll : ∀ (m : Memory) (l : List (Word × Byte)), m.invalid = true →
    (m.writeAll l).invalid = true
  | _, [], h => h
  | m, (a, v) :: r, h => Memory.invalid_writeAll (m.writeByte a v) r (by simp [h])

@[simp] theorem length_span : ∀ (n : Nat) (a : Word), (span n a).length = n
  | 0, _ => rfl
  | n + 1, a => by simp [span, length_span n]

@[simp] theorem length_leBytes (w : Width) (v : BitVec w.bits) : (leBytes w v).length = w.bytes := by
  cases w <;> rfl

/-- The addresses a store writes are those of its span. -/
theorem map_fst_storeCells (w : Width) (a : Word) (v : BitVec w.bits) :
    ((span w.bytes a).zip (leBytes w v)).map Prod.fst = span w.bytes a :=
  List.map_fst_zip (by simp)

/-- The addresses of an access are different (there are at most four of them). -/
theorem nodup_span (w : Width) (a : Word) : (span w.bytes a).Nodup := by
  have h1 : ∀ x : Word, ¬x = x + 1#32 := by intro x; bv_omega
  have h2 : ∀ x : Word, ¬x = x + 1#32 + 1#32 := by intro x; bv_omega
  have h3 : ∀ x : Word, ¬x = x + 1#32 + 1#32 + 1#32 := by intro x; bv_omega
  cases w
  · simp [span]
  · simp [span]
  · simp only [span, List.nodup_cons, List.mem_cons, List.not_mem_nil, or_false, not_or, List.nodup_nil, not_false_eq_true,
      and_true]
    exact ⟨⟨h1 _, h2 _, h3 _⟩, ⟨h1 _, h2 _⟩, h1 _⟩

/-- A store changes no byte outside its span: the frame of every storing form (20_memory R114, R116). -/
theorem Memory.dataAt_store_of_notMem (h : m.wf = true) (w : Width) (a : Word) (v : BitVec w.bits)
    (hb : b ∉ span w.bytes a) : (m.store w a v).dataAt b = m.dataAt b :=
  Memory.dataAt_writeAll_of_notMem h _ (by rwa [map_fst_storeCells])

theorem Memory.perms_store_of_notMem (h : m.wf = true) (w : Width) (a : Word) (v : BitVec w.bits)
    (hb : b ∉ span w.bytes a) : (m.store w a v).perms b = m.perms b :=
  Memory.perms_writeAll_of_notMem h _ (by rwa [map_fst_storeCells])

theorem Memory.readByte_store_of_notMem (h : m.wf = true) (w : Width) (a : Word) (v : BitVec w.bits)
    (hb : b ∉ span w.bytes a) : (m.store w a v).readByte b = m.readByte b :=
  Memory.readByte_congr (Memory.perms_store_of_notMem h w a v hb) (Memory.dataAt_store_of_notMem h w a v hb)

/-- A byte of a store holds its byte of the value where the write is permitted (20_memory R114, R116). -/
theorem Memory.dataAt_store_of_mem (h : m.wf = true) (w : Width) (a : Word) (v : BitVec w.bits) {x : Byte}
    (hb : (b, x) ∈ (span w.bytes a).zip (leBytes w v)) :
    (m.store w a v).dataAt b = if m.permitted .write b then x else m.dataAt b :=
  Memory.dataAt_writeAll_of_mem h (by rw [map_fst_storeCells]; exact nodup_span w a) hb

end Bytes

end Sys2Proof.Machine
end

