-- ==== Sys2Proof/Laws/Ops.lean ====
section
/-! SUPPORT. For each shared operation, once, everything it can do. -/

namespace Sys2Proof.Machine

/-! ### The paged memory, and the host code that may replace it -/

theorem State.paged_iff {s : State} : s.paged = true ↔ s.io = none ∧ s.mem.wf = true := by
  simp [State.paged, Option.isNone_iff_eq_none]

theorem State.paged_io {s : State} (h : s.paged = true) : s.io = none := (State.paged_iff.1 h).1
theorem State.paged_wf {s : State} (h : s.paged = true) : s.mem.wf = true := (State.paged_iff.1 h).2

/-- What a resumed core is: the state left, where it is one, with the launch parameters, draws, run and handler as
before. -/
theorem resume_cases (s t : State) : s.resume t = s ∨ (s.resume t).wf = true ∧
    s.resume t = { t with
      cfg := s.cfg
      draws := s.draws
      ctl := { t.ctl with running := s.ctl.running }
      io := s.io.map fun n => t.io.getD n } := by
  simp only [State.resume]
  split
  · exact .inr ⟨‹_›, rfl⟩
  · exact .inl rfl

@[simp] theorem resume_cfg (s t : State) : (s.resume t).cfg = s.cfg := by
  rcases resume_cases s t with h | ⟨_, h⟩ <;> rw [h]

@[simp] theorem resume_draws (s t : State) : (s.resume t).draws = s.draws := by
  rcases resume_cases s t with h | ⟨_, h⟩ <;> rw [h]

@[simp] theorem resume_running (s t : State) : (s.resume t).ctl.running = s.ctl.running := by
  rcases resume_cases s t with h | ⟨_, h⟩ <;> rw [h]

@[simp] theorem resume_io (s t : State) : (s.resume t).io.isSome = s.io.isSome := by
  rcases resume_cases s t with h | ⟨_, h⟩ <;> rw [h]
  simp

/-- Nothing changed: the core resumes where it was. -/
@[simp] theorem resume_self (s : State) : s.resume s = s := by
  have h : (s.io.map fun n => s.io.getD n) = s.io := by cases s.io <;> rfl
  simp [State.resume, h]

/-- A resumed core is in canonical form if it was. -/
theorem resume_wf {s : State} (t : State) (h : s.wf = true) : (s.resume t).wf = true := by
  rcases resume_cases s t with e | ⟨e, _⟩
  · rw [e]; exact h
  · exact e

/-- Host code leaves the paged memory the paged memory. -/
theorem resume_paged {s : State} (t : State) (h : s.paged = true) : (s.resume t).paged = true := by
  refine State.paged_iff.2 ⟨?_, ?_⟩
  · have h1 := resume_io s t
    rw [State.paged_io h] at h1
    exact Option.isSome_eq_false_iff.1 h1 |> Option.isNone_iff_eq_none.1
  · rcases resume_cases s t with e | ⟨e, _⟩
    · rw [e]; exact State.paged_wf h
    · simp only [State.wf, Bool.and_eq_true] at e
      exact e.1.1

theorem State.wf_iff {s : State} : s.wf = true ↔ s.mem.wf = true ∧ s.ports.wf = true ∧ s.sys.wf = true := by
  simp [State.wf, and_assoc]

theorem State.wf_setMem {s : State} {m : Memory} (h : s.wf = true) (hm : m.wf = true) : (s.setMem m).wf = true :=
  State.wf_iff.2 ⟨hm, (State.wf_iff.1 h).2⟩

/-- An access leaves the canonical form, whatever answers it. -/
theorem memTouch_wf {s : State} (h : s.wf = true) (w : Width) (a : Word) : (s.memTouch w a).wf = true := by
  unfold State.memTouch
  split
  · exact State.wf_setMem h (Memory.wf_touchRead (State.wf_iff.1 h).1 w a)
  · exact resume_wf _ h

theorem memStore_wf {s : State} (h : s.wf = true) (w : Width) (a : Word) (v : BitVec w.bits) :
    (s.memStore w a v).wf = true := by
  unfold State.memStore
  split
  · exact State.wf_setMem h (Memory.wf_store (State.wf_iff.1 h).1 w a v)
  · exact resume_wf _ h

theorem fetchTouch_wf {s : State} (h : s.wf = true) (a : Word) : (s.fetchTouch a).wf = true := by
  unfold State.fetchTouch
  split
  · exact State.wf_setMem h (Memory.wf_touch (State.wf_iff.1 h).1)
  · exact resume_wf _ h

/-- A descriptor in the paged memory: its two words and whether both were read (20_memory R133). -/
theorem descriptor_paged {s : State} (h : s.paged = true) (a : Word) :
    s.descriptor a = decodeDescriptor (s.mem.val .b32 a) (s.mem.val .b32 (a + 4)) := by
  have hi := State.paged_io h
  simp [State.descriptor, hi, Memory.val_touchRead (State.paged_wf h)]

theorem descValid_paged {s : State} (h : s.paged = true) (a : Word) :
    s.descValid a = (s.mem.ok .b32 a && s.mem.ok .b32 (a + 4)) := by
  have hi := State.paged_io h
  simp [State.descValid, hi, Memory.ok_touchRead (State.paged_wf h)]

@[simp] theorem descTouch_paged {s : State} (h : s.io = none) (a : Word) :
    s.descTouch a = s.setMem ((s.mem.touchRead .b32 a).touchRead .b32 (a + 4)) := by
  simp [State.descTouch, h]; rfl

/-- In real mode a segment load reads nothing (20_memory R130). -/
theorem segLoadTouch_real {s : State} (sel : BitVec 16) (h : s.pe = false) : s.segLoadTouch sel = s := by
  simp [State.segLoadTouch, h]

/-! ### Privilege and mode checks -/

theorem requireCpl0_pass {s : State} (k : State → State) (h : s.pe = false ∨ s.cpl = 0) : requireCpl0 s k = k s := by
  rcases h with h | h <;> simp [requireCpl0, h]

theorem requireCpl0_fail {s : State} (k : State → State) (hp : s.pe = true) (hc : s.cpl ≠ 0) :
    requireCpl0 s k = s.raise (.gp 0) := by
  unfold requireCpl0
  exact if_pos (by rw [hp, decide_eq_true hc]; rfl)

theorem checkIopl_pass {s : State} (k : State → State) (h : s.pe = false ∨ s.cpl ≤ s.flags.iopl) :
    checkIopl s k = k s := by
  rcases h with h | h
  · simp [checkIopl, h]
  · simp [checkIopl, BitVec.not_lt.2 h]

theorem checkIopl_fail {s : State} (k : State → State) (hp : s.pe = true) (hc : s.flags.iopl < s.cpl) :
    checkIopl s k = s.raise (.gp 0) := by
  simp [checkIopl, hp, hc]

theorem protectedOnly_pass {s : State} (k : State → State) (h : s.pe = true) : protectedOnly s k = k s := by
  simp [protectedOnly, h]

theorem protectedOnly_fail {s : State} (k : State → State) (h : s.pe = false) : protectedOnly s k = s.raise .ud := by
  simp [protectedOnly, h]

/-! ### Raising -/

theorem post_empty {s : State} (p : Pending) (h : s.intr.pending = none) : (s.post p).intr.pending = some p := by
  simp [h]

theorem post_full {s : State} {q : Pending} (p : Pending) (h : s.intr.pending = some q) :
    (s.post p).intr.pending = some q := by
  simp [h]

/-! ### Segment loads -/

theorem segLoad_real {s : State} (old : SegReg) (sel : BitVec 16) (h : s.pe = false) :
    s.segLoad old sel = some { old with sel := sel, base := sel.setWidth 32 <<< 4 } := by
  simp [State.segLoad, h]

theorem segLoad_null {s : State} (old : SegReg) {sel : BitVec 16} (h : s.pe = true) (hn : isNullSel sel = true) :
    s.segLoad old sel = some { sel := sel, base := 0, limit := 0, acc := 0 } := by
  simp [State.segLoad, h, hn]

theorem segLoad_outside {s : State} (old : SegReg) {sel : BitVec 16} (h : s.pe = true) (hn : isNullSel sel = false)
    (ha : s.descAddr sel = none) : s.segLoad old sel = none := by
  simp [State.segLoad, h, hn, ha]

theorem segLoad_inside {s : State} (old : SegReg) {sel : BitVec 16} {a : Word} (h : s.pe = true)
    (hn : isNullSel sel = false) (ha : s.descAddr sel = some a) :
    s.segLoad old sel =
      if (s.descriptor a).present && s.descValid a && (s.descriptor a).isSegment then
        some ((s.descriptor a).segReg sel)
      else none := by
  simp [State.segLoad, h, hn, ha]

theorem loadSeg_some {g : Seg} {sel : BitVec 16} {s : State} {k : State → State} {r : SegReg}
    (h : s.segLoad (s.segs.get g) sel = some r) :
    loadSeg g sel s k = k ((s.segLoadTouch sel).setSegs ((s.segLoadTouch sel).segs.set g r)) := by
  simp [loadSeg, h]

theorem loadSeg_none {g : Seg} {sel : BitVec 16} {s : State} {k : State → State}
    (h : s.segLoad (s.segs.get g) sel = none) :
    loadSeg g sel s k = (s.segLoadTouch sel).raise (.gp (sel.setWidth 32)) := by
  simp [loadSeg, h]

/-! ### Places -/

section Place

variable (s : State) (w : Width)

@[simp] theorem placeVal_reg (r : Num8) : s.placeVal w (.reg r) = s.regs.rn w r := rfl
@[simp] theorem placeVal_mem (g : Seg) (off : Word) : s.placeVal w (.mem g off) = s.segVal w g off := rfl
@[simp] theorem placeTouch_reg (r : Num8) : s.placeTouch w (.reg r) = s := rfl
@[simp] theorem placeTouch_mem (g : Seg) (off : Word) : s.placeTouch w (.mem g off) = s.segTouch w g off := rfl
@[simp] theorem placeStore_reg (r : Num8) (v : BitVec w.bits) : s.placeStore w (.reg r) v = s.setReg w r v := rfl
@[simp] theorem placeStore_mem (g : Seg) (off : Word) (v : BitVec w.bits) :
    s.placeStore w (.mem g off) v = s.segStore w g off v := rfl

end Place

/-! ### Registers -/

section Register

variable (b : Bank)

theorem Bank.get_set (i j : Num8) (v : Word) : (b.set i v).get j = if j = i then v else b.get j := by
  cases i <;> cases j <;> rfl

theorem Segs.get_set (b : Segs) (i j : Seg) (v : SegReg) : (b.set i v).get j = if j = i then v else b.get j := by
  cases i <;> cases j <;> rfl

theorem extract_low (x : BitVec 16) (v : BitVec 16) : (x ++ v).extractLsb' 0 16 = v := by
  ext j hj
  rw [BitVec.getElem_extractLsb', BitVec.getLsbD_append]
  simp [hj]

theorem extract_low8 (x : BitVec 24) (v : Byte) : (x ++ v).extractLsb' 0 8 = v := by
  ext j hj
  rw [BitVec.getElem_extractLsb', BitVec.getLsbD_append]
  simp [hj]

theorem extract_high8 (x : BitVec 16) (v y : Byte) : (x ++ v ++ y).extractLsb' 8 8 = v := by
  ext j hj
  rw [BitVec.getElem_extractLsb', BitVec.getLsbD_append, BitVec.getLsbD_append]
  simp [hj]

/-- A write through a register name is what a read through it returns (10_state R34). -/
theorem Bank.rn_setRn (w : Width) (i : Num8) (v : BitVec w.bits) : (b.setRn w i v).rn w i = v := by
  cases w
  · simp only [Bank.setRn, Bank.rn, Bank.setR8, Bank.r8, Bank.get_set, if_true]
    split
    · exact extract_high8 _ _ _
    · exact extract_low8 _ _
  · simp only [Bank.setRn, Bank.rn, Bank.setR16, Bank.r16, Bank.get_set, if_true]
    exact extract_low _ _
  · simp [Bank.setRn, Bank.rn, Bank.get_set]

theorem Bank.set_set (i : Num8) (v v' : Word) : (b.set i v).set i v' = b.set i v' := by
  cases i <;> rfl

theorem extract_top (x v : BitVec 16) : (x ++ v).extractLsb' 16 16 = x := by
  ext j hj
  rw [BitVec.getElem_extractLsb', BitVec.getLsbD_append]
  simp [hj]

theorem extract_top24 (x : BitVec 24) (v : Byte) : (x ++ v).extractLsb' 8 24 = x := by
  ext j hj
  rw [BitVec.getElem_extractLsb', BitVec.getLsbD_append]
  simp [hj]

/-- The last write through a register name counts (10_state R34). -/
theorem Bank.setRn_setRn (w : Width) (i : Num8) (v v' : BitVec w.bits) :
    (b.setRn w i v).setRn w i v' = b.setRn w i v' := by
  cases w
  · simp only [Bank.setRn, Bank.setR8, Bank.get_set, Bank.set_set, if_true]
    congr 1
    split
    · have h1 : ∀ (x : BitVec 16) (y z : Byte), (x ++ y ++ z).extractLsb' 16 16 = x := by
        intro x y z
        ext j hj
        rw [BitVec.getElem_extractLsb', BitVec.getLsbD_append, BitVec.getLsbD_append]
        simp [hj, show ¬16 + j < 8 by omega, show ¬16 + j - 8 < 8 by omega, show 16 + j - 8 - 8 = j by omega]
      have h2 : ∀ (x : BitVec 16) (y z : Byte), (x ++ y ++ z).extractLsb' 0 8 = z := by
        intro x y z
        ext j hj
        rw [BitVec.getElem_extractLsb', BitVec.getLsbD_append]
        simp [hj]
      rw [h1, h2]
    · rw [extract_top24]
  · simp only [Bank.setRn, Bank.setR16, Bank.get_set, Bank.set_set, if_true, extract_top]
  · exact Bank.set_set _ _ _ _

end Register

/-! ### Repetition -/

/-- What one turn of the repetition keeps, the repetition keeps (44_string_io R541). -/
theorem repLoop_keeps {P : State → Prop} {stop : State → Bool} {body : State → State}
    (h : ∀ s, P s → s.asReg .n1 ≠ 0 →
      P ((body s).setRegs ((body s).withAsReg .n1 ((body s).asReg .n1 - 1)))) :
    ∀ n s, P s → P (repLoop stop body n s)
  | 0, _, hs => hs
  | n + 1, s, hs => by
    unfold repLoop
    split
    · exact hs
    · rename_i hc
      have h1 := h s hs hc
      dsimp only
      split
      · exact h1
      · exact repLoop_keeps h n _ h1

/-! ### Fetching -/

/-- In the paged memory the decoder is given the bytes of the addresses (20_memory R115). -/
theorem codeBytes_paged : ∀ (n : Nat) {s : State}, s.paged = true →
    s.codeBytes n = (span n s.fetchLin).map s.mem.fetchByte
  | 0, _, _ => rfl
  | n + 1, s, h => by
    have hi := State.paged_io h
    have hw := State.paged_wf h
    rw [State.codeBytes, fetchTouch_paged hi, fetchVal_paged hi]
    have h1 : ((s.setMem (s.mem.touch .fetch s.fetchLin)).setEip (s.eip + 1)).paged = true :=
      State.paged_iff.2 ⟨hi, Memory.wf_touch hw⟩
    rw [State.setMem_eip, codeBytes_paged n h1]
    have hl : ((s.setMem (s.mem.touch .fetch s.fetchLin)).setEip (s.eip + 1)).fetchLin = s.fetchLin + 1 :=
      (BitVec.add_assoc _ _ _).symm
    have hf : (s.mem.touch .fetch s.fetchLin).fetchByte = s.mem.fetchByte := funext fun b => by
      simp only [Memory.fetchByte, Memory.dataAt_touch,
        Memory.permitted_congr (Memory.perms_touch hw (k := .fetch) (by decide))]
    rw [hl]
    simp only [span, List.map_cons, State.setMem_mem, State.setEip_mem, hf]

/-- Fetching from the paged memory changes EIP and sticky bits and nothing else (30_encoding R172). -/
theorem fetchBytes_done : ∀ (n : Nat) {s t : State}, s.io = none → s.fetchBytes n = .done t →
    t = (s.setMem (s.mem.touchAll .fetch (span n s.fetchLin))).setEip (s.eip + BitVec.ofNat 32 n)
  | 0, s, t, _, h => by
    cases h
    simp [span, Memory.touchAll, State.setMem, State.setEip]
  | n + 1, s, t, hp, h => by
    unfold State.fetchBytes at h
    rw [fetchTouch_paged hp] at h
    dsimp only at h
    split at h
    · cases h
    · split at h
      · cases h
      · split at h
        · cases h
        · have h1 := fetchBytes_done n (s := (s.setMem (s.mem.touch .fetch s.fetchLin)).setEip (s.eip + 1)) hp h
          rw [h1]
          simp only [State.setMem, State.setEip, State.fetchLin, span, Memory.touchAll, State.mk.injEq, true_and,
            and_true, and_self]
          constructor
          · rw [BitVec.add_assoc, BitVec.ofNat_add, BitVec.add_comm (BitVec.ofNat 32 n)]; rfl
          · rw [BitVec.add_assoc]

/-- One turn of the prefix loop on a prefix byte (30_encoding R175). -/
theorem runItems_prefix {n : Nat} {s s1 s2 : State} {i : Instr} (h : s.fetchItem = .instr i s1)
    (hp : i.isPfx = true) (he : exec i s1 = .next s2) : runItems (n + 1) s = runItems n s2 := by
  simp [runItems, h, hp, he]

/-- The last turn of the prefix loop: the instruction is executed and counted (60_exceptions R681). -/
theorem runItems_instr {n : Nat} {s s1 s2 : State} {i : Instr} (h : s.fetchItem = .instr i s1)
    (hp : i.isPfx = false) (he : exec i s1 = .next s2) : runItems (n + 1) s = .next s2.counted := by
  simp [runItems, h, hp, he]

/-! ### Delivery -/

theorem deliver_empty {s : State} (h : s.intr.pending = none) : s.deliver = s := by
  simp [State.deliver, h]

theorem deliver_full {s : State} {p : Pending} (h : s.intr.pending = some p) : s.deliver = s.takeException p := by
  simp [State.deliver, h]

/-- Without a hook, the default delivery (60_exceptions R660). -/
theorem takeException_plain {s : State} {p : Pending} (h : s.cfg.intrHook = false) :
    s.takeException p = (s.setIntr { s.intr with pending := none }).vectorTo p (s.returnAddr p) := by
  simp [State.takeException, h]
  rfl

/-- Without a code check the run goes on as it is (60_exceptions R692). -/
@[simp] theorem askCheck_none {s : State} (h : s.cfg.codeCheck = false) : s.askCheck = (false, s) := by
  simp [State.askCheck, h]

/-- Whatever a code check answers, the core goes on in the state that it, as host code, left. -/
theorem askCheck_cases (s : State) : s.askCheck.2 = s ∨ ∃ t, s.askCheck.2 = s.resume t := by
  unfold State.askCheck
  split
  · exact .inr ⟨_, rfl⟩
  · exact .inl rfl

/-- With a hook: what it answers and the state it leaves decide (60_exceptions R660, R690, R691). -/
theorem takeException_hook {s : State} {p : Pending} (h : s.cfg.intrHook = true) :
    s.takeException p =
      let s1 := s.setIntr { s.intr with pending := none }
      let r := Config.intrHook p.vector p.kind s1
      let u := s1.resume r.state
      if r.handled then (if r.moved then u else s1.hookReturn p u) else u.vectorTo p (s.returnAddr p) := by
  simp [State.takeException, h]
  rfl

/-- A failed lookup: halted, the interrupt kept (60_exceptions R665). -/
theorem takeException_lost {s : State} {p : Pending} (h : s.cfg.intrHook = false)
    (ht : (s.setIntr { s.intr with pending := none }).target p.vector = none) :
    s.takeException p =
      ((s.setIntr { s.intr with pending := none }).targetTouch p.vector).deliveryFailed p := by
  simp only [takeException_plain h, State.vectorTo, ht]

/-- A successful lookup: the transfer to the handler (60_exceptions R664). -/
theorem takeException_enter {s : State} {p : Pending} {t : BitVec 16 × Word} (h : s.cfg.intrHook = false)
    (ht : (s.setIntr { s.intr with pending := none }).target p.vector = some t) :
    s.takeException p =
      ((s.setIntr { s.intr with pending := none }).targetTouch p.vector).enterHandler p
        (s.returnAddr p).1 (s.returnAddr p).2 t.1 t.2 := by
  simp only [takeException_plain h, State.vectorTo, ht]

end Sys2Proof.Machine
end

