-- ==== Sys2Proof/Laws/Effects.lean ====
section
/-! SUPPORT. The shared operations in the terms of Safety.lean: what a read keeps, what a store, a push and a write to an
operand leave. -/

namespace Sys2Proof.Machine

section Mem

variable {m m1 m2 : Memory} {ws ws' : List Word}

theorem Memory.keepsBut_refl (m : Memory) (ws : List Word) : m.keepsBut m ws := fun _ _ => ⟨rfl, rfl, rfl⟩

theorem Memory.kept_refl (m : Memory) : m.kept m := m.keepsBut_refl []

theorem Memory.keepsBut_trans (h : m.keepsBut m1 ws) (h' : m1.keepsBut m2 ws') :
    m.keepsBut m2 (ws ++ ws') := by
  intro b hb
  simp only [List.mem_append, not_or] at hb
  have h1 := h b hb.1
  have h2 := h' b hb.2
  exact ⟨h2.1.trans h1.1, h2.2.1.trans h1.2.1, h2.2.2.trans h1.2.2⟩

theorem Memory.kept_trans (h : m.kept m1) (h' : m1.kept m2) : m.kept m2 := Memory.keepsBut_trans h h'

theorem Memory.keepsBut_mono (h : m.keepsBut m1 ws) (hs : ws ⊆ ws') : m.keepsBut m1 ws' :=
  fun b hb => h b fun hm => hb (hs hm)

theorem Memory.kept_touchAll (h : m.wf = true) {k : Access} (hk : k ≠ .write) (as : List Word) :
    m.kept (m.touchAll k as) := fun _ _ =>
  ⟨Memory.readByte_congr (Memory.perms_touchAll h hk as) (Memory.dataAt_touchAll as), Memory.dataAt_touchAll as,
    Memory.perms_touchAll h hk as⟩

/-- A read keeps every byte (20_memory R113, R126). -/
theorem Memory.kept_touchRead (h : m.wf = true) (w : Width) (a : Word) : m.kept (m.touchRead w a) :=
  Memory.kept_touchAll h (by decide) _

theorem Memory.kept_touch (h : m.wf = true) {k : Access} (hk : k ≠ .write) (a : Word) : m.kept (m.touch k a) :=
  Memory.kept_touchAll h hk [a]

/-- What is kept permits what it did. -/
theorem Memory.permitted_of_kept (h : m.kept m1) (k : Access) (a : Word) : m1.permitted k a = m.permitted k a :=
  Memory.permitted_congr (h a (by simp)).2.2

/-- What is kept reads as it did, at every width. -/
theorem Memory.val_of_kept (h : m.kept m1) (w : Width) (a : Word) : m1.val w a = m.val w a := by
  have hr : ∀ b, m1.readByte b = m.readByte b := fun b => (h b (by simp)).1
  cases w <;> simp only [Memory.val, hr]

/-- The permission nibble of a stored byte (20_memory R114). -/
theorem Memory.perms_writeAll_of_mem : ∀ {l : List (Word × Byte)} {m : Memory} {b : Word} {v : Byte}, m.wf = true →
    (l.map Prod.fst).Nodup → (b, v) ∈ l →
    (m.writeAll l).perms b = if m.permitted .write b then m.perms b ||| 0x08 else m.perms b
  | (a, x) :: r, m, b, v, h, hn, hm => by
    simp only [List.map_cons, List.nodup_cons] at hn
    rcases List.mem_cons.1 hm with heq | hr
    · cases heq
      show ((m.writeByte a x).writeAll r).perms a = _
      rw [Memory.perms_writeAll_of_notMem (Memory.wf_writeByte h) r hn.1, Memory.perms_writeByte h]
      simp
    · have hne : b ≠ a := by
        intro he
        exact hn.1 (he ▸ List.mem_map_of_mem (f := Prod.fst) hr)
      have hp : (m.writeByte a x).perms b = m.perms b := by
        rw [Memory.perms_writeByte h, if_neg fun hc => hne hc.1]
      show ((m.writeByte a x).writeAll r).perms b = _
      rw [Memory.perms_writeAll_of_mem (Memory.wf_writeByte h) hn.2 hr, Memory.permitted_congr hp, hp]

/-- A store leaves what `Memory.stored` says (20_memory R114, R116). -/
theorem Memory.stored_store (h : m.wf = true) (w : Width) (a : Word) (v : BitVec w.bits) :
    m.stored (m.store w a v) w a v := by
  refine ⟨fun b hb => ⟨Memory.readByte_store_of_notMem h w a v hb, Memory.dataAt_store_of_notMem h w a v hb,
    Memory.perms_store_of_notMem h w a v hb⟩, fun c hc => ⟨Memory.dataAt_store_of_mem h w a v hc, ?_⟩⟩
  exact Memory.perms_writeAll_of_mem h (by rw [map_fst_storeCells]; exact nodup_span w a) hc

/-- A store after a read leaves what the store alone leaves. -/
theorem Memory.stored_of_kept {w : Width} {a : Word} {v : BitVec w.bits} (h : m.kept m1) (h' : m1.stored m2 w a v) :
    m.stored m2 w a v := by
  refine ⟨Memory.keepsBut_trans h h'.1, fun c hc => ?_⟩
  have hk := h c.1 (by simp)
  have h2 := h'.2 c hc
  rw [Memory.permitted_of_kept h, hk.2.1, hk.2.2] at h2
  exact h2

end Mem

/-! ### Reads

In the paged memory whatever reads changes the memory alone, and there sticky bits alone (20_memory R113, R126). -/

section Read

variable {s : State}

/-- Only sticky bits of the memory differ. -/
def State.onlyTouched (s t : State) : Prop := ∃ m, t = s.setMem m ∧ s.mem.kept m ∧ m.wf = true

theorem onlyTouched_refl (h : s.paged = true) : s.onlyTouched s :=
  ⟨s.mem, rfl, Memory.kept_refl _, State.paged_wf h⟩

theorem onlyTouched_paged {t : State} (h : s.paged = true) (h' : s.onlyTouched t) : t.paged = true := by
  have hi : s.io = none := State.paged_io h
  obtain ⟨m, rfl, -, hw⟩ := h'
  exact State.paged_iff.2 ⟨hi, hw⟩

theorem onlyTouched_trans {t u : State} (h : s.onlyTouched t) (h' : t.onlyTouched u) : s.onlyTouched u := by
  obtain ⟨m, rfl, hk, -⟩ := h
  obtain ⟨m', rfl, hk', hw'⟩ := h'
  exact ⟨m', rfl, Memory.kept_trans hk hk', hw'⟩

theorem memTouch_only (h : s.paged = true) (w : Width) (a : Word) : s.onlyTouched (s.memTouch w a) := by
  rw [memTouch_paged (State.paged_io h)]
  exact ⟨_, rfl, Memory.kept_touchRead (State.paged_wf h) _ _, Memory.wf_touchRead (State.paged_wf h) _ _⟩

theorem fetchTouch_only (h : s.paged = true) (a : Word) : s.onlyTouched (s.fetchTouch a) := by
  rw [fetchTouch_paged (State.paged_io h)]
  exact ⟨_, rfl, Memory.kept_touch (State.paged_wf h) (by decide) _, Memory.wf_touch (State.paged_wf h)⟩

theorem segTouch_only (h : s.paged = true) (w : Width) (g : Seg) (off : Word) : s.onlyTouched (s.segTouch w g off) :=
  memTouch_only h _ _

theorem placeTouch_only (h : s.paged = true) (w : Width) (p : Place) : s.onlyTouched (s.placeTouch w p) := by
  cases p
  · exact onlyTouched_refl h
  · exact segTouch_only h _ _ _

theorem rmTouch_only (h : s.paged = true) (w : Width) (rm : RM) : s.onlyTouched (s.rmTouch w rm) :=
  placeTouch_only h _ _

theorem descTouch_only (h : s.paged = true) (a : Word) : s.onlyTouched (s.descTouch a) :=
  have h1 := memTouch_only h .b32 a
  onlyTouched_trans h1 (memTouch_only (onlyTouched_paged h h1) _ _)

theorem segLoadTouch_only (h : s.paged = true) (sel : BitVec 16) : s.onlyTouched (s.segLoadTouch sel) := by
  unfold State.segLoadTouch
  split
  · exact onlyTouched_refl h
  · split
    · exact onlyTouched_refl h
    · exact descTouch_only h _

theorem sysLoadTouch_only (h : s.paged = true) (sel : BitVec 16) : s.onlyTouched (s.sysLoadTouch sel) := by
  unfold State.sysLoadTouch
  split
  · exact onlyTouched_refl h
  · split
    · exact onlyTouched_refl h
    · exact descTouch_only h _

theorem targetTouch_only (h : s.paged = true) (v : Byte) : s.onlyTouched (s.targetTouch v) := by
  unfold State.targetTouch
  split
  · have h1 := memTouch_only h .b16 (s.vectorAddr v)
    exact onlyTouched_trans h1 (memTouch_only (onlyTouched_paged h h1) _ _)
  · split
    · exact onlyTouched_refl h
    · exact descTouch_only h _

end Read

/-! ### Writes -/

/-- Writing an operand, after any reads (30_encoding R193). -/
theorem placeStore_wrote {s t : State} (h : s.paged = true) (ht : s.onlyTouched t) (w : Width) (p : Place)
    (v : BitVec w.bits) : s.wrote (t.placeStore w p v) w p v := by
  have hp := onlyTouched_paged h ht
  rw [placeStore_paged (State.paged_io hp)]
  obtain ⟨m, rfl, hk, hw⟩ := ht
  cases p with
  | reg r => exact ⟨rfl, hk⟩
  | mem g off => exact ⟨rfl, Memory.stored_of_kept hk (Memory.stored_store hw w _ v)⟩

/-! ### Segment loads in real mode -/

/-- A segment load in real mode: no memory access and no exception (20_memory R130). -/
theorem loadSeg_real (s : State) (g : Seg) (sel : BitVec 16) (k : State → State) (h : s.pe = false) :
    loadSeg g sel s k = k (s.setSegs (s.segs.set g ((s.segs.get g).inReal sel))) := by
  rw [loadSeg_some (segLoad_real _ sel h), segLoadTouch_real sel h]
  have hb : sel.setWidth 32 <<< 4 = BitVec.ofNat 32 (16 * sel.toNat) := by
    apply BitVec.eq_of_toNat_eq
    rw [BitVec.toNat_shiftLeft, Nat.shiftLeft_eq, BitVec.toNat_setWidth, BitVec.toNat_ofNat]
    have := sel.isLt
    omega
  rw [hb]
  rfl

/-- A segment load in real mode keeps the stack's size (20_memory R130). -/
theorem size_set_inReal (b : Segs) (g : Seg) (sel : BitVec 16) :
    (b.set g ((b.get g).inReal sel)).ss.size = b.ss.size := by
  cases g <;> rfl

/-! ### The stack -/

theorem trunc_s16 (v : Word) : Sz.s16.trunc v = (v.setWidth 16).setWidth 32 := by
  simp only [Sz.trunc]
  ext i hi
  simp only [BitVec.getElem_and, BitVec.getElem_setWidth, BitVec.getLsbD_setWidth]
  interval_cases i <;> simp

@[simp] theorem trunc_s32 (v : Word) : Sz.s32.trunc v = v := rfl

theorem r16_eq (b : Bank) (i : Num8) : b.r16 i = (b.get i).setWidth 16 := by
  simp [Bank.r16, BitVec.setWidth_eq_extractLsb']

/-- The low 16 bits of a difference (00_scope R11). -/
theorem setWidth_sub16 (x y : Word) : (x - y).setWidth 16 = x.setWidth 16 - y.setWidth 16 := by bv_omega

/-- The low 16 bits of a sum (00_scope R11). -/
theorem setWidth_add16 (x y : Word) : (x + y).setWidth 16 = x.setWidth 16 + y.setWidth 16 := by bv_omega

theorem setWidth16_low (x : BitVec 16) : (x.setWidth 32).setWidth 16 = x := by bv_omega

theorem setWidth_ofNat16 (k : Nat) : (BitVec.ofNat 32 k).setWidth 16 = BitVec.ofNat 16 k := by
  apply BitVec.eq_of_toNat_eq
  simp

theorem sp_eq (s : State) : s.sp = match s.segs.ss.size with
    | .s16 => (s.regs.rn .b16 .n4).setWidth 32
    | .s32 => s.regs.rn .b32 .n4 := by
  unfold State.sp State.ssz
  cases s.segs.ss.size
  · rw [trunc_s16]; simp [Bank.rn, r16_eq, Bank.get]
  · rfl

/-- A push leaves what `pushed` says (41_data_movement R330). -/
theorem pushed_push {s : State} (h : s.paged = true) (w : Width) (v : BitVec w.bits) :
    pushed s.segs.ss w v s.regs s.mem (s.push w v).regs (s.push w v).mem := by
  rw [push_paged (State.paged_io h)]
  have hm := Memory.stored_store (State.paged_wf h) w (s.lin .ss (s.pushOff w)) v
  unfold pushed
  have hsp := sp_eq s
  cases hz : s.segs.ss.size with
  | s16 =>
    rw [hz] at hsp
    have ho : s.pushOff w = (s.regs.rn .b16 .n4 - BitVec.ofNat 16 w.bytes).setWidth 32 := by
      unfold State.pushOff State.ssz
      rw [hz, trunc_s16, hsp, setWidth_sub16, setWidth16_low, setWidth_ofNat16]
    rw [ho] at hm
    refine ⟨?_, by simpa [State.lin, Segs.get, ho] using hm⟩
    simp [State.withSp, Bank.withSp, State.ssz, hz, ho, Bank.setRn]
  | s32 =>
    rw [hz] at hsp
    have ho : s.pushOff w = s.regs.rn .b32 .n4 - BitVec.ofNat 32 w.bytes := by
      unfold State.pushOff State.ssz
      rw [hz, trunc_s32, hsp]
    rw [ho] at hm
    refine ⟨?_, by simpa [State.lin, Segs.get, ho] using hm⟩
    simp [State.withSp, Bank.withSp, State.ssz, hz, ho, Bank.setRn]

/-- Pushing several values, the first one first (41_data_movement R330). -/
theorem pushSeq_push {u : State} {g : SegReg} {w : Width} {v : BitVec w.bits} {vs : List (BitVec w.bits)} {b : Bank}
    {m : Memory} (hw : u.paged = true) (hg : u.segs.ss = g)
    (h : pushSeq g w vs (u.push w v).regs (u.push w v).mem b m) : pushSeq g w (v :: vs) u.regs u.mem b m := by
  subst hg
  exact ⟨_, _, pushed_push hw w v, h⟩

/-- Releasing stack bytes (41_data_movement R331). -/
theorem withSp_released (s : State) (k : Nat) : s.withSp (s.sp + BitVec.ofNat 32 k) = s.released k := by
  have hsp := sp_eq s
  unfold State.withSp Bank.withSp State.released SegReg.releasedIn State.ssz
  cases hz : s.segs.ss.size with
  | s16 =>
    rw [hz] at hsp
    rw [hsp]
    simp only [Bank.setRn, setWidth_add16, setWidth16_low, setWidth_ofNat16]
  | s32 =>
    rw [hz] at hsp
    rw [hsp]
    rfl

/-- `StackAdjust` by a positive number (41_data_movement R331). -/
theorem adjustSp_released (s : State) {k : Nat} {x : Word} (h : x = BitVec.ofNat 32 k) :
    s.adjustSp x = { s with regs := s.released k } := by
  subst h
  unfold State.adjustSp
  rw [withSp_released]
  rfl

/-- Releasing twice (41_data_movement R331). -/
theorem released_released (s : State) (j k : Nat) :
    ({ s with regs := s.released j } : State).released k = s.released (j + k) := by
  unfold State.released SegReg.releasedIn
  cases s.segs.ss.size <;> simp only <;> rw [Bank.rn_setRn, Bank.setRn_setRn, BitVec.add_assoc, BitVec.ofNat_add]

/-- What is released depends on the registers and the size of the stack only. -/
theorem released_congr {s t : State} (hr : t.regs = s.regs) (hs : t.segs.ss.size = s.segs.ss.size) (k : Nat) :
    t.released k = s.released k := by
  unfold State.released SegReg.releasedIn
  rw [hr, hs]

/-- The stack entry at the top (41_data_movement R331). -/
theorem top_stackAt {s : State} (h : s.io = none) (w : Width) : s.top w = s.stackAt w 0 := by
  have hsp := sp_eq s
  unfold State.top
  rw [segVal_paged h]
  unfold State.stackAt State.lin State.above
  cases hz : s.segs.ss.size <;> rw [hz] at hsp <;> simp [hsp, Segs.get]

/-- A stack entry above the top (43_control_transfer R493, R494). -/
theorem stackVal_stackAt {s : State} (h : s.io = none) (w : Width) (k : Nat) :
    s.stackVal w k = s.stackAt w (k * w.bytes) := by
  have hsp := sp_eq s
  rw [stackVal_paged h]
  unfold State.stackAt State.lin State.above State.stackOff State.ssz
  cases hz : s.segs.ss.size with
  | s16 =>
    rw [hz] at hsp
    rw [hsp]
    simp only [trunc_s16, setWidth_add16, setWidth16_low, setWidth_ofNat16, Segs.get]
  | s32 =>
    rw [hz] at hsp
    rw [hsp]
    rfl

/-! ### Fetching -/

/-- Below the top of the offset space a byte may be fetched (10_state R38). -/
theorem atTop_false {s : State} (h : s.eip.toNat < s.eipTop) : s.atTop = false := by
  unfold State.eipTop at h
  unfold State.atTop
  have h1 : ∀ v : Word, v.toNat ≠ s.eip.toNat → (s.eip == v) = false := fun v hv => by
    rw [beq_eq_false_iff_ne]
    rintro rfl
    exact hv rfl
  cases hz : s.segs.cs.size <;> rw [hz] at h <;> dsimp only at h
  · rw [h1 _ (by simp; omega), h1 _ (by simp; omega)]; rfl
  · rw [h1 _ (by simp; omega)]; rfl

/-- Fetching bytes that are all executable and valid, inside the offset space (30_encoding R172). -/
theorem fetchBytes_permitted : ∀ (n : Nat) {s : State}, s.paged = true → s.cfg.maxInsnBytes = none →
    (∀ b ∈ span n s.fetchLin, s.mem.permitted .fetch b = true) →
    s.eip.toNat + n ≤ s.eipTop →
    s.fetchBytes n = .done ((s.setMem (s.mem.touchAll .fetch (span n s.fetchLin))).setEip (s.eip + BitVec.ofNat 32 n))
  | 0, s, _, _, _, _ => by simp [State.fetchBytes, span, Memory.touchAll, State.setMem, State.setEip]
  | n + 1, s, hw, hm, hp, ht => by
    have h0 : s.fetchStop = none := by
      unfold State.fetchStop
      rw [fetchRefused_paged (State.paged_io hw), Memory.fetchRefused, if_pos (hp s.fetchLin (by simp [span]))]
    have h1 : s.atTop = false := atTop_false (by omega)
    have hi : s.io = none := State.paged_io hw
    unfold State.fetchBytes
    rw [fetchTouch_paged hi, h0]
    dsimp only
    rw [show (s.setMem (s.mem.touch .fetch s.fetchLin)).atTop = false from h1, State.setMem_eip]
    have h2 : ((s.setMem (s.mem.touch .fetch s.fetchLin)).setEip (s.eip + 1)).tooLong = false := by
      unfold State.tooLong
      show (match s.cfg.maxInsnBytes with | none => false | some m => _) = _
      rw [hm]
    rw [h2]
    simp only [Bool.false_eq_true, if_false]
    have he : (s.eip + 1).toNat + n ≤ s.eipTop := by
      have h3 : s.eipTop < 2 ^ 32 := by unfold State.eipTop; split <;> omega
      have h4 : (s.eip + 1).toNat = s.eip.toNat + 1 := by
        rw [BitVec.toNat_add]
        exact Nat.mod_eq_of_lt (by simp; omega)
      omega
    have hl : ((s.setMem (s.mem.touch .fetch s.fetchLin)).setEip (s.eip + 1)).fetchLin = s.fetchLin + 1 := by
      show s.segs.cs.base + (s.eip + 1) = s.segs.cs.base + s.eip + 1
      rw [BitVec.add_assoc]
    have := fetchBytes_permitted n (s := (s.setMem (s.mem.touch .fetch s.fetchLin)).setEip (s.eip + 1))
      (State.paged_iff.2 ⟨hi, Memory.wf_touch (State.paged_wf hw)⟩) hm
      (by
        rw [hl]
        intro b hb
        show (s.mem.touch .fetch s.fetchLin).permitted .fetch b = true
        rw [Memory.permitted_of_kept (Memory.kept_touch (State.paged_wf hw) (by decide) _)]
        exact hp b (List.mem_cons_of_mem _ hb)) he
    rw [this, hl]
    simp only [State.setMem, State.setEip, span, Memory.touchAll, Fetched.done.injEq, State.mk.injEq, true_and, and_true]
    rw [BitVec.add_assoc, BitVec.ofNat_add, BitVec.add_comm (BitVec.ofNat 32 n)]; rfl

end Sys2Proof.Machine
end

