-- ==== Sys2Proof/Laws/Flags.lean ====
section
/-! SUPPORT. The primitives of Flags.lean as arithmetic: each carry or borrow bit, the flag tables of additions and
subtractions, and the condition codes. -/

namespace Sys2Proof.Machine

variable {n : Nat}

/-- Bit i of the carry chain is the carry out of bit i (40_alu_primitives R251). -/
theorem getLsbD_carryChain (d s : BitVec n) (c : Bool) {i : Nat} (h : i < n) :
    (carryChain d s (d + s + (BitVec.ofBool c).setWidth n)).getLsbD i = BitVec.carry (i + 1) d s c := by
  rw [BitVec.carry_succ]
  simp only [carryChain, BitVec.getLsbD_or, BitVec.getLsbD_and, BitVec.getLsbD_not, h, decide_true,
    Bool.true_and, BitVec.getLsbD_add_add_bool h]
  cases d.getLsbD i <;> cases s.getLsbD i <;> cases BitVec.carry i d s c <;> rfl

/-- A subtraction with borrow is an addition of the complement. -/
theorem sub_eq_add_not (d s : BitVec n) (c : Bool) :
    d - s - (BitVec.ofBool c).setWidth n = d + ~~~s + (BitVec.ofBool !c).setWidth n := by
  cases n with
  | zero => exact Subsingleton.elim _ _
  | succ k =>
    have h1 : ~~~s = -s - 1 := by
      rw [BitVec.neg_eq_not_add]; simp
    rw [h1]
    cases c
    · have : (BitVec.ofBool (!false)).setWidth (k + 1) = 1#(k + 1) := by
        apply BitVec.eq_of_toNat_eq; simp
      rw [this]
      have h0 : (BitVec.ofBool false).setWidth (k + 1) = 0#(k + 1) := by
        apply BitVec.eq_of_toNat_eq; simp
      rw [h0, BitVec.sub_eq_add_neg, BitVec.sub_eq_add_neg, BitVec.sub_eq_add_neg]
      simp [BitVec.add_assoc]
    · have : (BitVec.ofBool (!true)).setWidth (k + 1) = 0#(k + 1) := by
        apply BitVec.eq_of_toNat_eq; simp
      rw [this]
      have h0 : (BitVec.ofBool true).setWidth (k + 1) = 1#(k + 1) := by
        apply BitVec.eq_of_toNat_eq; simp
      rw [h0, BitVec.sub_eq_add_neg, BitVec.sub_eq_add_neg, BitVec.sub_eq_add_neg]
      simp [BitVec.add_assoc]

/-- Bit i of the borrow chain is the borrow out of bit i (40_alu_primitives R252). -/
theorem getLsbD_borrowChain (d s : BitVec n) (c : Bool) {i : Nat} (h : i < n) :
    (borrowChain d s (d - s - (BitVec.ofBool c).setWidth n)).getLsbD i = !BitVec.carry (i + 1) d (~~~s) (!c) := by
  rw [BitVec.carry_succ, sub_eq_add_not]
  simp only [borrowChain, BitVec.getLsbD_or, BitVec.getLsbD_and, BitVec.getLsbD_not, h, decide_true,
    Bool.true_and, BitVec.getLsbD_add_add_bool h]
  cases d.getLsbD i <;> cases s.getLsbD i <;> cases BitVec.carry i d (~~~s) (!c) <;> rfl

theorem carry_decide (i : Nat) (x y : BitVec n) (c : Bool) :
    BitVec.carry i x y c = decide (2 ^ i ≤ x.toNat % 2 ^ i + y.toNat % 2 ^ i + c.toNat) := rfl

/-- A borrow out of the low i bits. -/
theorem borrow_decide (i : Nat) (x y : BitVec n) (c : Bool) (h : i ≤ n) :
    (!BitVec.carry i x (~~~y) (!c)) = decide (x.toNat % 2 ^ i < y.toNat % 2 ^ i + c.toNat) := by
  have h1 : (~~~y).toNat % 2 ^ i = 2 ^ i - 1 - y.toNat % 2 ^ i := by
    rw [BitVec.toNat_not]
    have hd : 2 ^ i ∣ 2 ^ n := pow_dvd_pow 2 h
    obtain ⟨q, hq⟩ := hd
    have hlt := y.isLt
    have hm := Nat.mod_lt y.toNat (Nat.two_pow_pos i)
    have hdm := Nat.div_add_mod y.toNat (2 ^ i)
    have hqd : y.toNat / 2 ^ i < q := by
      rw [Nat.div_lt_iff_lt_mul (Nat.two_pow_pos i), Nat.mul_comm]; omega
    have : 2 ^ n - 1 - y.toNat = 2 ^ i * (q - 1 - y.toNat / 2 ^ i) + (2 ^ i - 1 - y.toNat % 2 ^ i) := by
      obtain ⟨e, he⟩ : ∃ e, q = y.toNat / 2 ^ i + 1 + e := ⟨q - (y.toNat / 2 ^ i + 1), by omega⟩
      have : q - 1 - y.toNat / 2 ^ i = e := by omega
      rw [this]
      have h2 : 2 ^ n = 2 ^ i * (y.toNat / 2 ^ i) + 2 ^ i + 2 ^ i * e := by rw [hq, he]; ring
      omega
    rw [this, Nat.mul_add_mod, Nat.mod_eq_of_lt]
    omega
  rw [carry_decide, h1]
  have hm := Nat.mod_lt y.toNat (Nat.two_pow_pos i)
  have hp := Nat.two_pow_pos i
  cases c <;> simp only [Bool.not_false, Bool.not_true, Bool.toNat_true, Bool.toNat_false, ← decide_not,
    decide_eq_decide] <;> omega

theorem toInt_split {k : Nat} (x : BitVec (k + 1)) :
    x.toInt = (x.toNat % 2 ^ k : Nat) - 2 ^ k * (x.toNat / 2 ^ k : Nat) ∧ x.toNat / 2 ^ k < 2 := by
  have h := x.isLt
  have hdm := Nat.div_add_mod x.toNat (2 ^ k)
  have hq : x.toNat / 2 ^ k < 2 := by
    rw [Nat.div_lt_iff_lt_mul (Nat.two_pow_pos k)]; rw [pow_succ] at h; omega
  refine ⟨?_, hq⟩
  have hm := Nat.mod_lt x.toNat (Nat.two_pow_pos k)
  rw [BitVec.toInt_eq_toNat_cond]
  have hp : (2 : Nat) ^ (k + 1) = 2 * 2 ^ k := by rw [pow_succ]; ring
  generalize x.toNat = X at *
  have hc : ((2 : Int) ^ k) = ((2 ^ k : Nat) : Int) := by push_cast; rfl
  rw [hp, hc]
  generalize 2 ^ k = P at *
  generalize X % P = r at *
  generalize X / P = q at *
  interval_cases q
  · rw [if_pos (by omega)]
    push_cast; omega
  · rw [if_neg (by omega)]
    push_cast; omega

/-- Carry out of the top bit and into it differ exactly when the signed sum does not fit (40_alu_primitives R251). -/
theorem carry_xor_carry {k : Nat} (x y : BitVec (k + 1)) (c : Bool) :
    (BitVec.carry (k + 1) x y c ^^ BitVec.carry k x y c) = !fitsSigned (k + 1) (x.toInt + y.toInt + c.toNat) := by
  obtain ⟨hx, hx2⟩ := toInt_split x
  obtain ⟨hy, hy2⟩ := toInt_split y
  have hxm := Nat.div_add_mod x.toNat (2 ^ k)
  have hym := Nat.div_add_mod y.toNat (2 ^ k)
  have hxl := Nat.mod_lt x.toNat (Nat.two_pow_pos k)
  have hyl := Nat.mod_lt y.toNat (Nat.two_pow_pos k)
  have hc : ((2 : Int) ^ k) = ((2 ^ k : Nat) : Int) := by push_cast; rfl
  have hp : (2 : Nat) ^ (k + 1) = 2 * 2 ^ k := by rw [pow_succ]; ring
  rw [carry_decide, carry_decide, Nat.mod_eq_of_lt x.isLt, Nat.mod_eq_of_lt y.isLt, fitsSigned, hx, hy, hp]
  simp only [Nat.add_sub_cancel, hc]
  generalize x.toNat % 2 ^ k = a at *
  generalize y.toNat % 2 ^ k = b at *
  generalize x.toNat / 2 ^ k = p at *
  generalize y.toNat / 2 ^ k = q at *
  rw [← hxm, ← hym]
  clear hxm hym hx hy hp hc
  generalize 2 ^ k = P at *
  have hc1 := Bool.toNat_le c
  generalize c.toNat = e at *
  interval_cases p <;> interval_cases q <;> rw [Bool.eq_iff_iff] <;>
    simp only [bne_iff_ne, ne_eq, decide_eq_decide, Bool.not_eq_true', Bool.and_eq_false_iff,
      decide_eq_false_iff_not, Nat.cast_zero, Nat.cast_one, mul_zero, mul_one] <;> omega

theorem toInt_not {k : Nat} (x : BitVec (k + 1)) : (~~~x).toInt = -x.toInt - 1 := by
  have h := x.isLt
  simp only [BitVec.toInt_eq_toNat_cond, BitVec.toNat_not]
  rw [pow_succ] at *
  split <;> split <;> omega

theorem parity8_eq_evenOnes (r : BitVec n) : parity8 r = evenOnes r := by
  unfold parity8 evenOnes
  simp only [List.range, List.range.loop, List.filter]
  generalize r.getLsbD 0 = a0
  generalize r.getLsbD 1 = a1
  generalize r.getLsbD 2 = a2
  generalize r.getLsbD 3 = a3
  generalize r.getLsbD 4 = a4
  generalize r.getLsbD 5 = a5
  generalize r.getLsbD 6 = a6
  generalize r.getLsbD 7 = a7
  revert a0 a1 a2 a3 a4 a5 a6 a7
  decide

/-- ZF, SF and PF of `szp` (40_alu_primitives R250). -/
theorem ofResult_szp (f : Eflags) (r : BitVec n) : (f.szp r).ofResult r := by
  refine ⟨?_, BitVec.msb_eq_getLsbD_last r, parity8_eq_evenOnes r⟩
  simp only [Eflags.szp]
  rw [Bool.eq_iff_iff]
  simp [BitVec.toNat_eq]

/-- The flags of a carry chain are those of the addition (40_alu_primitives R253, R254). -/
theorem addTable_chain {k : Nat} (d s : BitVec (k + 4)) (c : Bool) (f : Eflags) :
    addTable d s c (d + s + (BitVec.ofBool c).setWidth (k + 4)) f
      ((f.szp (d + s + (BitVec.ofBool c).setWidth (k + 4))).chain
        (carryChain d s (d + s + (BitVec.ofBool c).setWidth (k + 4)))) := by
  have hd := Nat.mod_eq_of_lt d.isLt
  have hs := Nat.mod_eq_of_lt s.isLt
  refine ⟨?_, ?_, ?_, ?_, ofResult_szp f _, ⟨rfl, rfl, rfl, rfl, rfl⟩⟩
  · have h1 : ((BitVec.ofBool c).setWidth (k + 4)).toNat = c.toNat := by
      rw [BitVec.toNat_setWidth, BitVec.toNat_ofBool]
      apply Nat.mod_eq_of_lt
      calc c.toNat ≤ 1 := Bool.toNat_le c
        _ < 2 ^ (k + 4) := Nat.one_lt_two_pow (by omega)
    simp [BitVec.toNat_add, h1]
  · show (carryChain _ _ _).getLsbD (k + 3) = _
    rw [getLsbD_carryChain d s c (by omega), carry_decide, hd, hs]
  · show ((carryChain _ _ _).getLsbD (k + 3) ^^ (carryChain _ _ _).getLsbD (k + 2)) = _
    rw [getLsbD_carryChain d s c (by omega), getLsbD_carryChain d s c (by omega)]
    exact carry_xor_carry (k := k + 3) d s c
  · show (carryChain _ _ _).getLsbD 3 = _
    rw [getLsbD_carryChain d s c (by omega), carry_decide]
    rfl

/-- The flags of a borrow chain are those of the subtraction (40_alu_primitives R256, R257). -/
theorem subTable_chain {k : Nat} (d s : BitVec (k + 4)) (c : Bool) (f : Eflags) :
    subTable d s c (d - s - (BitVec.ofBool c).setWidth (k + 4)) f
      ((f.szp (d - s - (BitVec.ofBool c).setWidth (k + 4))).chain
        (borrowChain d s (d - s - (BitVec.ofBool c).setWidth (k + 4)))) := by
  have hd := Nat.mod_eq_of_lt d.isLt
  have hs := Nat.mod_eq_of_lt s.isLt
  refine ⟨?_, ?_, ?_, ?_, ofResult_szp f _, ⟨rfl, rfl, rfl, rfl, rfl⟩⟩
  · have h1 : ((BitVec.ofBool c).setWidth (k + 4)).toNat = c.toNat := by
      rw [BitVec.toNat_setWidth, BitVec.toNat_ofBool]
      apply Nat.mod_eq_of_lt
      calc c.toNat ≤ 1 := Bool.toNat_le c
        _ < 2 ^ (k + 4) := Nat.one_lt_two_pow (by omega)
    have hc : ((2 : Int) ^ (k + 4)) = ((2 ^ (k + 4) : Nat) : Int) := by push_cast; rfl
    rw [BitVec.toNat_sub, BitVec.toNat_sub, h1, hc]
    have hsl := s.isLt
    have hc1 := Bool.toNat_le c
    have hp : 1 < 2 ^ (k + 4) := Nat.one_lt_two_pow (by omega)
    generalize 2 ^ (k + 4) = P at *
    generalize d.toNat = D at *
    generalize s.toNat = S at *
    generalize c.toNat = e at *
    push_cast [Nat.cast_sub hsl.le, Nat.cast_sub (show e ≤ P by omega)]
    rw [Int.add_emod_emod, show (P : Int) - e + (P - S + D) = (D - S - e) + P * 2 by ring,
      Int.add_mul_emod_self_left]
  · show (borrowChain _ _ _).getLsbD (k + 3) = _
    rw [getLsbD_borrowChain d s c (by omega), borrow_decide _ _ _ _ (by omega), hd, hs]
  · show ((borrowChain _ _ _).getLsbD (k + 3) ^^ (borrowChain _ _ _).getLsbD (k + 2)) = _
    rw [getLsbD_borrowChain d s c (by omega), getLsbD_borrowChain d s c (by omega), Bool.not_xor_not]
    rw [carry_xor_carry (k := k + 3) d (~~~s) (!c)]
    rw [toInt_not (k := k + 3), show d.toInt + (-s.toInt - 1) + ((!c).toNat : Int) = d.toInt - s.toInt - c.toNat by
      cases c <;> simp <;> ring]
  · show (borrowChain _ _ _).getLsbD 3 = _
    rw [getLsbD_borrowChain d s c (by omega), borrow_decide _ _ _ _ (by omega)]
    rfl

/-! ### EFLAGS as a word -/

/-- The bits of EFLAGS as a word (10_state R40, R41). -/
theorem Eflags.getLsbD_toWord (f : Eflags) (k : Nat) : f.toWord.getLsbD k =
    match k with
    | 0 => f.cf
    | 1 => true
    | 2 => f.pf
    | 4 => f.af
    | 6 => f.zf
    | 7 => f.sf
    | 8 => f.tf
    | 9 => f.ifl
    | 10 => f.df
    | 11 => f.ovf
    | 12 => f.iopl.getLsbD 0
    | 13 => f.iopl.getLsbD 1
    | 14 => f.nt
    | _ => false := by
  by_cases hk : k < 32
  · interval_cases k <;> simp only [Eflags.toWord, BitVec.getLsbD_append] <;> simp
  · rw [BitVec.getLsbD_of_ge _ _ (Nat.not_lt.1 hk)]
    split <;> first | rfl | omega

/-- The conditions (43_control_transfer R481). -/
theorem condHolds_iff (f : Eflags) (c : Cond) : condHolds f c = true ↔ condTable f c := by
  cases c <;> simp [condHolds, condTable]

end Sys2Proof.Machine
end

