-- ==== Sys2Proof/Laws/Installed.lean ====
section
/-! SUPPORT. No instruction changes a launch parameter or installs or removes a memory-I/O handler (10_state R70,
20_memory R124): one lemma per shared operation, then all instructions at once. -/

namespace Sys2Proof.Machine

/-- The launch parameters, and whether a memory-I/O handler is installed. -/
def State.installed (s : State) : Launch × Bool := (s.cfg, s.io.isSome)

section

variable {s : State}

@[simp] theorem installed_setRegs (v : Bank) : (s.setRegs v).installed = s.installed := rfl
@[simp] theorem installed_setEip (v : Word) : (s.setEip v).installed = s.installed := rfl
@[simp] theorem installed_setFlags (v : Eflags) : (s.setFlags v).installed = s.installed := rfl
@[simp] theorem installed_setSegs (v : Segs) : (s.setSegs v).installed = s.installed := rfl
@[simp] theorem installed_setSys (v : Sys) : (s.setSys v).installed = s.installed := rfl
@[simp] theorem installed_setIntr (v : Intr) : (s.setIntr v).installed = s.installed := rfl
@[simp] theorem installed_setPfx (v : Pfx) : (s.setPfx v).installed = s.installed := rfl
@[simp] theorem installed_setCtl (v : Ctl) : (s.setCtl v).installed = s.installed := rfl
@[simp] theorem installed_setMem (v : Memory) : (s.setMem v).installed = s.installed := rfl
@[simp] theorem installed_setPorts (v : Ports) : (s.setPorts v).installed = s.installed := rfl
@[simp] theorem installed_setDraws (v : Nat) : (s.setDraws v).installed = s.installed := rfl
@[simp] theorem installed_setReg (w : Width) (i : Num8) (v : BitVec w.bits) :
    (s.setReg w i v).installed = s.installed := rfl
@[simp] theorem installed_adjustSp (k : Word) : (s.adjustSp k).installed = s.installed := rfl
@[simp] theorem installed_haltWith (r : BitVec 8) : (s.haltWith r).installed = s.installed := rfl
@[simp] theorem installed_stepIndex (w : Width) (i : Num8) : (s.stepIndex w i).installed = s.installed := rfl
@[simp] theorem installed_setZf (z : Bool) : (s.setZf z).installed = s.installed := rfl

/-- Host code leaves a handler where there was one, and the launch parameters (60_exceptions R690). -/
@[simp] theorem installed_resume (u : State) : (s.resume u).installed = s.installed := by
  simp [State.installed]

@[simp] theorem installed_memTouch (w : Width) (a : Word) : (s.memTouch w a).installed = s.installed := by
  unfold State.memTouch
  split
  · rfl
  · exact installed_resume _

@[simp] theorem installed_memStore (w : Width) (a : Word) (v : BitVec w.bits) :
    (s.memStore w a v).installed = s.installed := by
  unfold State.memStore
  split
  · rfl
  · exact installed_resume _

@[simp] theorem installed_fetchTouch (a : Word) : (s.fetchTouch a).installed = s.installed := by
  unfold State.fetchTouch
  split
  · rfl
  · exact installed_resume _

@[simp] theorem installed_segTouch (w : Width) (g : Seg) (off : Word) :
    (s.segTouch w g off).installed = s.installed := installed_memTouch _ _

@[simp] theorem installed_segStore (w : Width) (g : Seg) (off : Word) (v : BitVec w.bits) :
    (s.segStore w g off v).installed = s.installed := installed_memStore _ _ _

@[simp] theorem installed_stackTouch (w : Width) (k : Nat) : (s.stackTouch w k).installed = s.installed :=
  installed_memTouch _ _

@[simp] theorem installed_placeTouch (w : Width) (p : Place) : (s.placeTouch w p).installed = s.installed := by
  cases p
  · rfl
  · exact installed_segTouch _ _ _

@[simp] theorem installed_eaTouch (w : Width) (m : MemRef) (k : Nat) : (s.eaTouch w m k).installed = s.installed :=
  installed_placeTouch _ _

@[simp] theorem installed_placeStore (w : Width) (p : Place) (v : BitVec w.bits) :
    (s.placeStore w p v).installed = s.installed := by
  cases p
  · rfl
  · exact installed_segStore _ _ _ _

@[simp] theorem installed_rmTouch (w : Width) (rm : RM) : (s.rmTouch w rm).installed = s.installed :=
  installed_placeTouch _ _

@[simp] theorem installed_rmStore (w : Width) (rm : RM) (v : BitVec w.bits) :
    (s.rmStore w rm v).installed = s.installed := installed_placeStore _ _ _

@[simp] theorem installed_push (w : Width) (v : BitVec w.bits) : (s.push w v).installed = s.installed :=
  installed_segStore _ _ _ _

@[simp] theorem installed_popped (w : Width) : (s.popped w).installed = s.installed := installed_segTouch _ _ _

@[simp] theorem installed_portTouch (w : Width) (p : BitVec 16) : (s.portTouch w p).installed = s.installed := rfl

@[simp] theorem installed_portWrite (w : Width) (p : BitVec 16) (v : BitVec w.bits) :
    (s.portWrite w p v).installed = s.installed := rfl

@[simp] theorem installed_raise (x : Exn) : (s.raise x).installed = s.installed := rfl

@[simp] theorem installed_descTouch (a : Word) : (s.descTouch a).installed = s.installed := by
  simp [State.descTouch]

@[simp] theorem installed_segLoadTouch (sel : BitVec 16) : (s.segLoadTouch sel).installed = s.installed := by
  unfold State.segLoadTouch
  split
  · rfl
  · split <;> simp

@[simp] theorem installed_sysLoadTouch (sel : BitVec 16) : (s.sysLoadTouch sel).installed = s.installed := by
  unfold State.sysLoadTouch
  split
  · rfl
  · split <;> simp

@[simp] theorem installed_targetTouch (v : Byte) : (s.targetTouch v).installed = s.installed := by
  unfold State.targetTouch
  split
  · simp
  · split <;> simp

theorem installed_loadSeg {g : Seg} {sel : BitVec 16} {k : State → State}
    (hk : ∀ u, (k u).installed = u.installed) : (loadSeg g sel s k).installed = s.installed := by
  unfold loadSeg
  dsimp only
  split
  · rw [hk]; simp
  · simp

theorem installed_requireCpl0 {k : State → State} (hk : ∀ u, (k u).installed = u.installed) :
    (requireCpl0 s k).installed = s.installed := by
  unfold requireCpl0
  split
  · rfl
  · exact hk s

theorem installed_checkIopl {k : State → State} (hk : ∀ u, (k u).installed = u.installed) :
    (checkIopl s k).installed = s.installed := by
  unfold checkIopl
  split
  · rfl
  · exact hk s

theorem installed_protectedOnly {k : State → State} (hk : ∀ u, (k u).installed = u.installed) :
    (protectedOnly s k).installed = s.installed := by
  unfold protectedOnly
  split
  · exact hk s
  · rfl

theorem installed_repLoop {stop : State → Bool} {body : State → State}
    (hb : ∀ u, (body u).installed = u.installed) : ∀ n s, (repLoop stop body n s).installed = s.installed
  | 0, _ => rfl
  | n + 1, s => by
    unfold repLoop
    split
    · rfl
    · dsimp only
      split
      · exact hb s
      · rw [installed_repLoop hb n]; exact hb s

theorem installed_repeated {stop : State → Bool} {body : State → State}
    (hb : ∀ u, (body u).installed = u.installed) : (s.repeated stop body).installed = s.installed := by
  unfold State.repeated
  split
  · exact hb s
  · exact installed_repLoop hb _ s

@[simp] theorem installed_enterLevels (w : Width) : ∀ n s, (enterLevels w n s).installed = s.installed
  | 0, _ => rfl
  | n + 1, s => by unfold enterLevels; rw [installed_enterLevels w n]; simp

/-- A call/jump hook is host code (43_control_transfer R504). -/
theorem installed_hooked {k : CallKind} {rm : RM} {u : State} (hu : u.installed = s.installed) :
    ((s.hooked k rm).getD u).installed = s.installed := by
  unfold State.hooked
  split
  · exact hu
  · split
    · generalize Config.callJmpHook _ _ _ = x
      cases x
      · exact hu
      · simp
    · exact hu

end

/-- No instruction changes a launch parameter, or installs or removes a handler. -/
theorem exec_installed {i : Instr} {s t : State} (h : exec i s = .next t) : t.installed = s.installed := by
  cases i <;> simp only [
    exec, execPfxEs, execPfxCs, execPfxSs, execPfxDs, execPfxFs, execPfxGs, execPfxOpSize, execPfxAdSize, execPfxLock,
    execPfxRepne, execPfxRep, execAdd, execOr, execAdc, execSbb, execAnd, execSub, execXor, execCmp, execTest,
    execInc, execDec, execNot, execNeg, execMul, execImul, execImul2, execImul3, execDiv, execIdiv, execRol, execRor,
    execRcl, execRcr, execShl, execShr, execSar, execShld, execShrd, execBt, execBts, execBtr, execBtc, execBsf,
    execBsr, execDaa, execDas, execAaa, execAas, execAam, execAad, execClc, execStc, execCmc, execCld, execStd,
    execMov, execMovFromSeg, execMovToSeg, execMovFromCr, execMovToCr, execMovFromDr, execMovToDr, execMovzx,
    execMovsx, execLea, execPush, execPop, execPopSeg, execPusha, execPushad, execPopa, execPopad, execEnter,
    execLeave, execXchg, execNop, execXlat, execLds, execLes, execLfs, execLgs, execLss, execCbw, execCwde, execCwd,
    execCdq, execLahf, execSahf, execPushf, execPushfd, execPopf, execPopfd, execSeto, execSetno, execSetb, execSetnb,
    execSetz, execSetnz, execSetbe, execSetnbe, execSets, execSetns, execSetp, execSetnp, execSetl, execSetnl,
    execSetle, execSetnle, execJo, execJno, execJb, execJnb, execJz, execJnz, execJbe, execJnbe, execJs, execJns,
    execJp, execJnp, execJl, execJnl, execJle, execJnle, execJmp, execJmpRm, execJmpFar, execJmpFarMem, execCall,
    execCallRm, execCallFar, execCallFarMem, execRet, execRetImm, execRetf, execRetfImm, execIret, execIretd,
    execLoop, execLoope, execLoopne, execJcxz, execInt, execInt3, execInto, execBound, execMovsb, execMovsw,
    execMovsd, execCmpsb, execCmpsw, execCmpsd, execScasb, execScasw, execScasd, execLodsb, execLodsw, execLodsd,
    execStosb, execStosw, execStosd, execInsb, execInsw, execInsd, execOutsb, execOutsw, execOutsd, execInp, execOutp,
    execHlt, execCli, execSti, execWait, execArpl, execSldt, execStr, execLldt, execLtr, execSgdt, execSidt, execLgdt,
    execLidt, execSmsw, execLmsw, execClts, execRdmsr, execWrmsr, execUd, State.alu, State.aluFlags, State.unary,
    State.multiply, State.multiplyInto, State.divide, State.shift, State.doubleShift, State.bitModify, State.bitScan,
    State.storeWord, State.loadFar, State.popReg, State.pushAll, State.popAll, State.popFlags, State.setcc,
    State.branch, State.jcc, State.nearCall, State.nearReturn, State.farJump, State.farCall, State.farReturn,
    State.interruptReturn, State.stackTouch, State.farTouch,
    State.loopOn, State.storeTable, State.tableTouch, State.setCr0, State.setLdtr, State.setTr, State.setGdtr,
    State.setIdtr, State.pushReg, State.drew,
    State.overrideSeg] at h
  all_goals first
    | (cases h; done)
    | (cases h; simp; done)
    | (split at h <;> cases h <;> simp)
    | (cases h; exact installed_loadSeg fun _ => by simp)
    | (cases h; rw [installed_loadSeg fun _ => by simp]; simp)
    | (cases h; apply installed_requireCpl0; intro u; first | (simp; done) | (split <;> simp))
    | (cases h; apply installed_checkIopl; intro u; simp)
    | (cases h; exact installed_hooked (by simp))
    | (cases h; exact installed_repeated fun _ => by
        simp [movsBody, cmpsBody, scasBody, lodsBody, stosBody])
    | (cases h; exact installed_checkIopl fun _ => installed_repeated fun _ => by simp [insBody, outsBody])
    | (cases h; apply installed_protectedOnly; intro u; first | (split <;> simp) | (cases ‹RM› <;> simp; done))
    | (cases h; apply installed_protectedOnly; intro u; apply installed_requireCpl0; intro u
       split
       · simp
       · split <;> simp)

end Sys2Proof.Machine
end

