-- ==== Sys2Proof/Laws/PerInstr.lean ====
section
/-! SUPPORT. Statements made per instruction: that its encoding has from one to eleven bytes (30_encoding R173). -/

namespace Sys2Proof

theorem length_disp16 (d : Disp16) : d.bytes.length ≤ 2 := by cases d <;> simp [Disp16.bytes, enc16]

theorem length_disp32 (d : Disp32) : d.bytes.length ≤ 4 := by cases d <;> simp [Disp32.bytes, enc32]

theorem length_encModRm (r : Num8) (rm : RM) : 1 ≤ (encModRm r rm).length ∧ (encModRm r rm).length ≤ 6 := by
  cases rm with
  | reg => simp [encModRm]
  | mem m =>
    cases m with
    | m16 _ d => have := length_disp16 d; simp [encModRm]; omega
    | abs16 => simp [encModRm, enc16]
    | m32 _ d => have := length_disp32 d; simp [encModRm]; omega
    | abs32 => simp [encModRm, enc32]
    | sib _ _ _ d => have := length_disp32 d; simp [encModRm]; omega
    | sibAbs => simp [encModRm, enc32]

theorem length_encIz (z : Iz) : 2 ≤ (encIz z).length ∧ (encIz z).length ≤ 4 := by
  cases z <;> simp [encIz, enc16, enc32]

/-- From one to eleven bytes. -/
def byteCount (l : List Byte) : Prop := 1 ≤ l.length ∧ l.length ≤ 11

theorem byteCount_alu (n : Num8) (f : AluForm) : byteCount (encAlu n f) := by
  unfold byteCount
  cases f with
  | rmR w rm r => have := length_encModRm r rm; cases w <;> simp [encAlu] <;> omega
  | rRm w r rm => have := length_encModRm r rm; cases w <;> simp [encAlu] <;> omega
  | accIb v => simp [encAlu]
  | accIz z => have := length_encIz z; simp [encAlu]; omega
  | ebIb rm v => have := length_encModRm n rm; simp [encAlu]; omega
  | evIz rm z => have := length_encModRm n rm; have := length_encIz z; simp [encAlu]; omega
  | evIb rm v => have := length_encModRm n rm; simp [encAlu]; omega

theorem byteCount_f6 (n : Num8) (w : OpW) (rm : RM) : byteCount (encF6 n w rm) := by
  have := length_encModRm n rm
  unfold byteCount
  cases w <;> simp [encF6] <;> omega

theorem byteCount_shift (n : Num8) (w : OpW) (rm : RM) (c : ShCount) : byteCount (encShift n w rm c) := by
  have := length_encModRm n rm
  unfold byteCount
  cases w <;> cases c <;> simp [encShift] <;> omega

theorem byteCount_dshift (a b : Byte) (rm : RM) (r : Num8) (c : DShCount) : byteCount (encDShift a b rm r c) := by
  have := length_encModRm r rm
  unfold byteCount
  cases c <;> simp [encDShift] <;> omega

theorem byteCount_bit (a : Byte) (n : Num8) (rm : RM) (i : BitIdx) : byteCount (encBit a n rm i) := by
  unfold byteCount
  cases i with
  | reg r => have := length_encModRm r rm; simp [encBit]; omega
  | imm v => have := length_encModRm n rm; simp [encBit]; omega

theorem byteCount_two (a b : Byte) (r : Num8) (rm : RM) : byteCount (a :: b :: encModRm r rm) := by
  have := length_encModRm r rm
  simp only [byteCount, List.length_cons]
  omega

theorem byteCount_one (a : Byte) (r : Num8) (rm : RM) : byteCount (a :: encModRm r rm) := by
  have := length_encModRm r rm
  simp only [byteCount, List.length_cons]
  omega

theorem byteCount_jcc (c : Cond) (rel : Rel) : byteCount (encJcc c rel) := by
  unfold byteCount
  cases rel with
  | short => simp [encJcc]
  | near z => have := length_encIz z; simp [encJcc]; omega

theorem byteCount_far (a : Byte) (p : FarPtr) : byteCount (a :: encFar p) := by
  have := length_encIz p.off
  simp [byteCount, encFar, enc16]
  omega

theorem byteCount_iz (a : Byte) (z : Iz) : byteCount (a :: encIz z) := by
  have := length_encIz z
  simp only [byteCount, List.length_cons]
  omega

theorem byteCount_rm_iz (a : Byte) (r : Num8) (rm : RM) (z : Iz) : byteCount (a :: encModRm r rm ++ encIz z) := by
  have := length_encModRm r rm
  have := length_encIz z
  simp [byteCount]
  omega

theorem byteCount_rm_ib (a : Byte) (r : Num8) (rm : RM) (v : Byte) : byteCount (a :: encModRm r rm ++ [v]) := by
  have := length_encModRm r rm
  simp [byteCount]
  omega

theorem byteCount1 (a : Byte) : byteCount [a] := by simp [byteCount]

theorem byteCount2 (a b : Byte) : byteCount [a, b] := by simp [byteCount]

theorem byteCount3 (a b c : Byte) : byteCount [a, b, c] := by simp [byteCount]

theorem byteCount4 (a b c d : Byte) : byteCount [a, b, c, d] := by simp [byteCount]

theorem byteCount_mov (f : MovForm) : byteCount (encMov f) := by
  unfold byteCount
  cases f with
  | rmR w rm r => have := length_encModRm r rm; cases w <;> simp [encMov] <;> omega
  | rRm w r rm => have := length_encModRm r rm; cases w <;> simp [encMov] <;> omega
  | ebIb rm v => have := length_encModRm .n0 rm; simp [encMov]; omega
  | evIz rm z => have := length_encModRm .n0 rm; have := length_encIz z; simp [encMov]; omega
  | rIb r v => simp [encMov]
  | rIz r z => have := length_encIz z; simp [encMov]; omega
  | accOff w off => cases w <;> cases off <;> simp [encMov, encMoffs, enc16, enc32]
  | offAcc w off => cases w <;> cases off <;> simp [encMov, encMoffs, enc16, enc32]

theorem byteCount_ud (f : UdForm) : byteCount (encUd f) := by
  unfold byteCount
  cases f with
  | opD6 => simp [encUd]
  | opF1 => simp [encUd]
  | esc k r rm => have := length_encModRm r rm; simp [encUd]; omega
  | two => simp [encUd]
  | slot op r rm => have := length_encModRm r rm; cases op <;> simp [encUd, UdOp.bytes] <;> omega

end Sys2Proof

/-- The encoding of an instruction that some operand and address size admits has from one to eleven bytes
(30_encoding R173). -/
def Sys2Proof.Laws.EncodeLength.Statement (i : Sys2Proof.Instr) : Prop :=
  ∀ m : Sys2Proof.DecMode, i.wf m = true → Sys2Proof.byteCount (Sys2Proof.encode i)

theorem Sys2Proof.Laws.EncodeLength.pfxEs : Sys2Proof.Laws.EncodeLength.Statement .pfxEs :=
  fun _ _ => Sys2Proof.byteCount1 _

theorem Sys2Proof.Laws.EncodeLength.pfxCs : Sys2Proof.Laws.EncodeLength.Statement .pfxCs :=
  fun _ _ => Sys2Proof.byteCount1 _

theorem Sys2Proof.Laws.EncodeLength.pfxSs : Sys2Proof.Laws.EncodeLength.Statement .pfxSs :=
  fun _ _ => Sys2Proof.byteCount1 _

theorem Sys2Proof.Laws.EncodeLength.pfxDs : Sys2Proof.Laws.EncodeLength.Statement .pfxDs :=
  fun _ _ => Sys2Proof.byteCount1 _

theorem Sys2Proof.Laws.EncodeLength.pfxFs : Sys2Proof.Laws.EncodeLength.Statement .pfxFs :=
  fun _ _ => Sys2Proof.byteCount1 _

theorem Sys2Proof.Laws.EncodeLength.pfxGs : Sys2Proof.Laws.EncodeLength.Statement .pfxGs :=
  fun _ _ => Sys2Proof.byteCount1 _

theorem Sys2Proof.Laws.EncodeLength.pfxOpSize : Sys2Proof.Laws.EncodeLength.Statement .pfxOpSize :=
  fun _ _ => Sys2Proof.byteCount1 _

theorem Sys2Proof.Laws.EncodeLength.pfxAdSize : Sys2Proof.Laws.EncodeLength.Statement .pfxAdSize :=
  fun _ _ => Sys2Proof.byteCount1 _

theorem Sys2Proof.Laws.EncodeLength.pfxLock : Sys2Proof.Laws.EncodeLength.Statement .pfxLock :=
  fun _ _ => Sys2Proof.byteCount1 _

theorem Sys2Proof.Laws.EncodeLength.pfxRepne : Sys2Proof.Laws.EncodeLength.Statement .pfxRepne :=
  fun _ _ => Sys2Proof.byteCount1 _

theorem Sys2Proof.Laws.EncodeLength.pfxRep : Sys2Proof.Laws.EncodeLength.Statement .pfxRep :=
  fun _ _ => Sys2Proof.byteCount1 _

theorem Sys2Proof.Laws.EncodeLength.add (f : Sys2Proof.AluForm) : Sys2Proof.Laws.EncodeLength.Statement (.add f) :=
  fun _ _ => Sys2Proof.byteCount_alu _ _

theorem Sys2Proof.Laws.EncodeLength.or (f : Sys2Proof.AluForm) : Sys2Proof.Laws.EncodeLength.Statement (.or f) :=
  fun _ _ => Sys2Proof.byteCount_alu _ _

theorem Sys2Proof.Laws.EncodeLength.adc (f : Sys2Proof.AluForm) : Sys2Proof.Laws.EncodeLength.Statement (.adc f) :=
  fun _ _ => Sys2Proof.byteCount_alu _ _

theorem Sys2Proof.Laws.EncodeLength.sbb (f : Sys2Proof.AluForm) : Sys2Proof.Laws.EncodeLength.Statement (.sbb f) :=
  fun _ _ => Sys2Proof.byteCount_alu _ _

theorem Sys2Proof.Laws.EncodeLength.and (f : Sys2Proof.AluForm) : Sys2Proof.Laws.EncodeLength.Statement (.and f) :=
  fun _ _ => Sys2Proof.byteCount_alu _ _

theorem Sys2Proof.Laws.EncodeLength.sub (f : Sys2Proof.AluForm) : Sys2Proof.Laws.EncodeLength.Statement (.sub f) :=
  fun _ _ => Sys2Proof.byteCount_alu _ _

theorem Sys2Proof.Laws.EncodeLength.xor (f : Sys2Proof.AluForm) : Sys2Proof.Laws.EncodeLength.Statement (.xor f) :=
  fun _ _ => Sys2Proof.byteCount_alu _ _

theorem Sys2Proof.Laws.EncodeLength.cmp (f : Sys2Proof.AluForm) : Sys2Proof.Laws.EncodeLength.Statement (.cmp f) :=
  fun _ _ => Sys2Proof.byteCount_alu _ _

theorem Sys2Proof.Laws.EncodeLength.test (f : Sys2Proof.TestForm) :
    Sys2Proof.Laws.EncodeLength.Statement (.test f) := by
  intro _ _
  cases f with
  | rmR w rm r => cases w <;> exact Sys2Proof.byteCount_one _ _ _
  | accIb v => exact Sys2Proof.byteCount2 _ _
  | accIz z => exact Sys2Proof.byteCount_iz _ _
  | ebIb rm v => exact Sys2Proof.byteCount_rm_ib _ _ _ _
  | evIz rm z => exact Sys2Proof.byteCount_rm_iz _ _ _ _

theorem Sys2Proof.Laws.EncodeLength.inc (f : Sys2Proof.IncForm) : Sys2Proof.Laws.EncodeLength.Statement (.inc f) := by
  intro _ _
  cases f with
  | reg r => exact Sys2Proof.byteCount1 _
  | e w rm => cases w <;> exact Sys2Proof.byteCount_one _ _ _

theorem Sys2Proof.Laws.EncodeLength.dec (f : Sys2Proof.IncForm) : Sys2Proof.Laws.EncodeLength.Statement (.dec f) := by
  intro _ _
  cases f with
  | reg r => exact Sys2Proof.byteCount1 _
  | e w rm => cases w <;> exact Sys2Proof.byteCount_one _ _ _

theorem Sys2Proof.Laws.EncodeLength.not (w : Sys2Proof.OpW) (rm : Sys2Proof.RM) :
    Sys2Proof.Laws.EncodeLength.Statement (.not w rm) :=
  fun _ _ => Sys2Proof.byteCount_f6 _ _ _

theorem Sys2Proof.Laws.EncodeLength.neg (w : Sys2Proof.OpW) (rm : Sys2Proof.RM) :
    Sys2Proof.Laws.EncodeLength.Statement (.neg w rm) :=
  fun _ _ => Sys2Proof.byteCount_f6 _ _ _

theorem Sys2Proof.Laws.EncodeLength.mul (w : Sys2Proof.OpW) (rm : Sys2Proof.RM) :
    Sys2Proof.Laws.EncodeLength.Statement (.mul w rm) :=
  fun _ _ => Sys2Proof.byteCount_f6 _ _ _

theorem Sys2Proof.Laws.EncodeLength.imul (w : Sys2Proof.OpW) (rm : Sys2Proof.RM) :
    Sys2Proof.Laws.EncodeLength.Statement (.imul w rm) :=
  fun _ _ => Sys2Proof.byteCount_f6 _ _ _

theorem Sys2Proof.Laws.EncodeLength.imul2 (r : Sys2Proof.Num8) (rm : Sys2Proof.RM) :
    Sys2Proof.Laws.EncodeLength.Statement (.imul2 r rm) :=
  fun _ _ => Sys2Proof.byteCount_two _ _ _ _

theorem Sys2Proof.Laws.EncodeLength.imul3 (r : Sys2Proof.Num8) (rm : Sys2Proof.RM) (imm : Sys2Proof.ImulImm) :
    Sys2Proof.Laws.EncodeLength.Statement (.imul3 r rm imm) := by
  intro _ _
  cases imm with
  | iz z => exact Sys2Proof.byteCount_rm_iz _ _ _ _
  | ib v => exact Sys2Proof.byteCount_rm_ib _ _ _ _

theorem Sys2Proof.Laws.EncodeLength.div (w : Sys2Proof.OpW) (rm : Sys2Proof.RM) :
    Sys2Proof.Laws.EncodeLength.Statement (.div w rm) :=
  fun _ _ => Sys2Proof.byteCount_f6 _ _ _

theorem Sys2Proof.Laws.EncodeLength.idiv (w : Sys2Proof.OpW) (rm : Sys2Proof.RM) :
    Sys2Proof.Laws.EncodeLength.Statement (.idiv w rm) :=
  fun _ _ => Sys2Proof.byteCount_f6 _ _ _

theorem Sys2Proof.Laws.EncodeLength.rol (w : Sys2Proof.OpW) (rm : Sys2Proof.RM) (c : Sys2Proof.ShCount) :
    Sys2Proof.Laws.EncodeLength.Statement (.rol w rm c) :=
  fun _ _ => Sys2Proof.byteCount_shift _ _ _ _

theorem Sys2Proof.Laws.EncodeLength.ror (w : Sys2Proof.OpW) (rm : Sys2Proof.RM) (c : Sys2Proof.ShCount) :
    Sys2Proof.Laws.EncodeLength.Statement (.ror w rm c) :=
  fun _ _ => Sys2Proof.byteCount_shift _ _ _ _

theorem Sys2Proof.Laws.EncodeLength.rcl (w : Sys2Proof.OpW) (rm : Sys2Proof.RM) (c : Sys2Proof.ShCount) :
    Sys2Proof.Laws.EncodeLength.Statement (.rcl w rm c) :=
  fun _ _ => Sys2Proof.byteCount_shift _ _ _ _

theorem Sys2Proof.Laws.EncodeLength.rcr (w : Sys2Proof.OpW) (rm : Sys2Proof.RM) (c : Sys2Proof.ShCount) :
    Sys2Proof.Laws.EncodeLength.Statement (.rcr w rm c) :=
  fun _ _ => Sys2Proof.byteCount_shift _ _ _ _

theorem Sys2Proof.Laws.EncodeLength.shl (w : Sys2Proof.OpW) (rm : Sys2Proof.RM) (c : Sys2Proof.ShCount) :
    Sys2Proof.Laws.EncodeLength.Statement (.shl w rm c) :=
  fun _ _ => Sys2Proof.byteCount_shift _ _ _ _

theorem Sys2Proof.Laws.EncodeLength.shr (w : Sys2Proof.OpW) (rm : Sys2Proof.RM) (c : Sys2Proof.ShCount) :
    Sys2Proof.Laws.EncodeLength.Statement (.shr w rm c) :=
  fun _ _ => Sys2Proof.byteCount_shift _ _ _ _

theorem Sys2Proof.Laws.EncodeLength.sar (w : Sys2Proof.OpW) (rm : Sys2Proof.RM) (c : Sys2Proof.ShCount) :
    Sys2Proof.Laws.EncodeLength.Statement (.sar w rm c) :=
  fun _ _ => Sys2Proof.byteCount_shift _ _ _ _

theorem Sys2Proof.Laws.EncodeLength.shld (rm : Sys2Proof.RM) (r : Sys2Proof.Num8) (c : Sys2Proof.DShCount) :
    Sys2Proof.Laws.EncodeLength.Statement (.shld rm r c) :=
  fun _ _ => Sys2Proof.byteCount_dshift _ _ _ _ _

theorem Sys2Proof.Laws.EncodeLength.shrd (rm : Sys2Proof.RM) (r : Sys2Proof.Num8) (c : Sys2Proof.DShCount) :
    Sys2Proof.Laws.EncodeLength.Statement (.shrd rm r c) :=
  fun _ _ => Sys2Proof.byteCount_dshift _ _ _ _ _

theorem Sys2Proof.Laws.EncodeLength.bt (rm : Sys2Proof.RM) (i : Sys2Proof.BitIdx) :
    Sys2Proof.Laws.EncodeLength.Statement (.bt rm i) :=
  fun _ _ => Sys2Proof.byteCount_bit _ _ _ _

theorem Sys2Proof.Laws.EncodeLength.bts (rm : Sys2Proof.RM) (i : Sys2Proof.BitIdx) :
    Sys2Proof.Laws.EncodeLength.Statement (.bts rm i) :=
  fun _ _ => Sys2Proof.byteCount_bit _ _ _ _

theorem Sys2Proof.Laws.EncodeLength.btr (rm : Sys2Proof.RM) (i : Sys2Proof.BitIdx) :
    Sys2Proof.Laws.EncodeLength.Statement (.btr rm i) :=
  fun _ _ => Sys2Proof.byteCount_bit _ _ _ _

theorem Sys2Proof.Laws.EncodeLength.btc (rm : Sys2Proof.RM) (i : Sys2Proof.BitIdx) :
    Sys2Proof.Laws.EncodeLength.Statement (.btc rm i) :=
  fun _ _ => Sys2Proof.byteCount_bit _ _ _ _

theorem Sys2Proof.Laws.EncodeLength.bsf (r : Sys2Proof.Num8) (rm : Sys2Proof.RM) :
    Sys2Proof.Laws.EncodeLength.Statement (.bsf r rm) :=
  fun _ _ => Sys2Proof.byteCount_two _ _ _ _

theorem Sys2Proof.Laws.EncodeLength.bsr (r : Sys2Proof.Num8) (rm : Sys2Proof.RM) :
    Sys2Proof.Laws.EncodeLength.Statement (.bsr r rm) :=
  fun _ _ => Sys2Proof.byteCount_two _ _ _ _

theorem Sys2Proof.Laws.EncodeLength.daa : Sys2Proof.Laws.EncodeLength.Statement .daa :=
  fun _ _ => Sys2Proof.byteCount1 _

theorem Sys2Proof.Laws.EncodeLength.das : Sys2Proof.Laws.EncodeLength.Statement .das :=
  fun _ _ => Sys2Proof.byteCount1 _

theorem Sys2Proof.Laws.EncodeLength.aaa : Sys2Proof.Laws.EncodeLength.Statement .aaa :=
  fun _ _ => Sys2Proof.byteCount1 _

theorem Sys2Proof.Laws.EncodeLength.aas : Sys2Proof.Laws.EncodeLength.Statement .aas :=
  fun _ _ => Sys2Proof.byteCount1 _

theorem Sys2Proof.Laws.EncodeLength.aam (ib : Sys2Proof.Byte) : Sys2Proof.Laws.EncodeLength.Statement (.aam ib) :=
  fun _ _ => Sys2Proof.byteCount2 _ _

theorem Sys2Proof.Laws.EncodeLength.aad (ib : Sys2Proof.Byte) : Sys2Proof.Laws.EncodeLength.Statement (.aad ib) :=
  fun _ _ => Sys2Proof.byteCount2 _ _

theorem Sys2Proof.Laws.EncodeLength.clc : Sys2Proof.Laws.EncodeLength.Statement .clc :=
  fun _ _ => Sys2Proof.byteCount1 _

theorem Sys2Proof.Laws.EncodeLength.stc : Sys2Proof.Laws.EncodeLength.Statement .stc :=
  fun _ _ => Sys2Proof.byteCount1 _

theorem Sys2Proof.Laws.EncodeLength.cmc : Sys2Proof.Laws.EncodeLength.Statement .cmc :=
  fun _ _ => Sys2Proof.byteCount1 _

theorem Sys2Proof.Laws.EncodeLength.cld : Sys2Proof.Laws.EncodeLength.Statement .cld :=
  fun _ _ => Sys2Proof.byteCount1 _

theorem Sys2Proof.Laws.EncodeLength.std : Sys2Proof.Laws.EncodeLength.Statement .std :=
  fun _ _ => Sys2Proof.byteCount1 _

theorem Sys2Proof.Laws.EncodeLength.mov (f : Sys2Proof.MovForm) : Sys2Proof.Laws.EncodeLength.Statement (.mov f) :=
  fun _ _ => Sys2Proof.byteCount_mov _

theorem Sys2Proof.Laws.EncodeLength.movFromSeg (s : Sys2Proof.Seg) (rm : Sys2Proof.RM) :
    Sys2Proof.Laws.EncodeLength.Statement (.movFromSeg s rm) :=
  fun _ _ => Sys2Proof.byteCount_one _ _ _

theorem Sys2Proof.Laws.EncodeLength.movToSeg (s : Sys2Proof.Seg) (rm : Sys2Proof.RM) :
    Sys2Proof.Laws.EncodeLength.Statement (.movToSeg s rm) :=
  fun _ _ => Sys2Proof.byteCount_one _ _ _

theorem Sys2Proof.Laws.EncodeLength.movFromCr (r n : Sys2Proof.Num8) :
    Sys2Proof.Laws.EncodeLength.Statement (.movFromCr r n) :=
  fun _ _ => Sys2Proof.byteCount3 _ _ _

theorem Sys2Proof.Laws.EncodeLength.movToCr (n r : Sys2Proof.Num8) :
    Sys2Proof.Laws.EncodeLength.Statement (.movToCr n r) :=
  fun _ _ => Sys2Proof.byteCount3 _ _ _

theorem Sys2Proof.Laws.EncodeLength.movFromDr (r n : Sys2Proof.Num8) :
    Sys2Proof.Laws.EncodeLength.Statement (.movFromDr r n) :=
  fun _ _ => Sys2Proof.byteCount3 _ _ _

theorem Sys2Proof.Laws.EncodeLength.movToDr (n r : Sys2Proof.Num8) :
    Sys2Proof.Laws.EncodeLength.Statement (.movToDr n r) :=
  fun _ _ => Sys2Proof.byteCount3 _ _ _

theorem Sys2Proof.Laws.EncodeLength.movzx (w : Sys2Proof.OpW) (r : Sys2Proof.Num8) (rm : Sys2Proof.RM) :
    Sys2Proof.Laws.EncodeLength.Statement (.movzx w r rm) := by
  intro _ _
  cases w <;> exact Sys2Proof.byteCount_two _ _ _ _

theorem Sys2Proof.Laws.EncodeLength.movsx (w : Sys2Proof.OpW) (r : Sys2Proof.Num8) (rm : Sys2Proof.RM) :
    Sys2Proof.Laws.EncodeLength.Statement (.movsx w r rm) := by
  intro _ _
  cases w <;> exact Sys2Proof.byteCount_two _ _ _ _

theorem Sys2Proof.Laws.EncodeLength.lea (r : Sys2Proof.Num8) (m : Sys2Proof.MemRef) :
    Sys2Proof.Laws.EncodeLength.Statement (.lea r m) :=
  fun _ _ => Sys2Proof.byteCount_one _ _ _

theorem Sys2Proof.Laws.EncodeLength.push (f : Sys2Proof.PushForm) :
    Sys2Proof.Laws.EncodeLength.Statement (.push f) := by
  intro _ _
  cases f with
  | seg s => cases s <;> first | exact Sys2Proof.byteCount1 _ | exact Sys2Proof.byteCount2 _ _
  | reg r => exact Sys2Proof.byteCount1 _
  | iz z => exact Sys2Proof.byteCount_iz _ _
  | ib v => exact Sys2Proof.byteCount2 _ _
  | ev rm => exact Sys2Proof.byteCount_one _ _ _

theorem Sys2Proof.Laws.EncodeLength.pop (f : Sys2Proof.PopForm) : Sys2Proof.Laws.EncodeLength.Statement (.pop f) := by
  intro _ _
  cases f with
  | reg r => exact Sys2Proof.byteCount1 _
  | ev rm => exact Sys2Proof.byteCount_one _ _ _

theorem Sys2Proof.Laws.EncodeLength.popSeg (s : Sys2Proof.Seg) :
    Sys2Proof.Laws.EncodeLength.Statement (.popSeg s) := by
  intro _ h
  cases s <;> first | exact Sys2Proof.byteCount1 _ | exact Sys2Proof.byteCount2 _ _ | exact absurd h Bool.false_ne_true

theorem Sys2Proof.Laws.EncodeLength.pusha : Sys2Proof.Laws.EncodeLength.Statement .pusha :=
  fun _ _ => Sys2Proof.byteCount1 _

theorem Sys2Proof.Laws.EncodeLength.pushad : Sys2Proof.Laws.EncodeLength.Statement .pushad :=
  fun _ _ => Sys2Proof.byteCount1 _

theorem Sys2Proof.Laws.EncodeLength.popa : Sys2Proof.Laws.EncodeLength.Statement .popa :=
  fun _ _ => Sys2Proof.byteCount1 _

theorem Sys2Proof.Laws.EncodeLength.popad : Sys2Proof.Laws.EncodeLength.Statement .popad :=
  fun _ _ => Sys2Proof.byteCount1 _

theorem Sys2Proof.Laws.EncodeLength.enter (size : BitVec 16) (level : Sys2Proof.Byte) :
    Sys2Proof.Laws.EncodeLength.Statement (.enter size level) :=
  fun _ _ => Sys2Proof.byteCount4 _ _ _ _

theorem Sys2Proof.Laws.EncodeLength.leave : Sys2Proof.Laws.EncodeLength.Statement .leave :=
  fun _ _ => Sys2Proof.byteCount1 _

theorem Sys2Proof.Laws.EncodeLength.xchg (f : Sys2Proof.XchgForm) :
    Sys2Proof.Laws.EncodeLength.Statement (.xchg f) := by
  intro _ _
  cases f with
  | rmR w rm r => cases w <;> exact Sys2Proof.byteCount_one _ _ _
  | acc r => exact Sys2Proof.byteCount1 _

theorem Sys2Proof.Laws.EncodeLength.nop : Sys2Proof.Laws.EncodeLength.Statement .nop :=
  fun _ _ => Sys2Proof.byteCount1 _

theorem Sys2Proof.Laws.EncodeLength.xlat : Sys2Proof.Laws.EncodeLength.Statement .xlat :=
  fun _ _ => Sys2Proof.byteCount1 _

theorem Sys2Proof.Laws.EncodeLength.lds (r : Sys2Proof.Num8) (m : Sys2Proof.MemRef) :
    Sys2Proof.Laws.EncodeLength.Statement (.lds r m) :=
  fun _ _ => Sys2Proof.byteCount_one _ _ _

theorem Sys2Proof.Laws.EncodeLength.les (r : Sys2Proof.Num8) (m : Sys2Proof.MemRef) :
    Sys2Proof.Laws.EncodeLength.Statement (.les r m) :=
  fun _ _ => Sys2Proof.byteCount_one _ _ _

theorem Sys2Proof.Laws.EncodeLength.lfs (r : Sys2Proof.Num8) (m : Sys2Proof.MemRef) :
    Sys2Proof.Laws.EncodeLength.Statement (.lfs r m) :=
  fun _ _ => Sys2Proof.byteCount_two _ _ _ _

theorem Sys2Proof.Laws.EncodeLength.lgs (r : Sys2Proof.Num8) (m : Sys2Proof.MemRef) :
    Sys2Proof.Laws.EncodeLength.Statement (.lgs r m) :=
  fun _ _ => Sys2Proof.byteCount_two _ _ _ _

theorem Sys2Proof.Laws.EncodeLength.lss (r : Sys2Proof.Num8) (m : Sys2Proof.MemRef) :
    Sys2Proof.Laws.EncodeLength.Statement (.lss r m) :=
  fun _ _ => Sys2Proof.byteCount_two _ _ _ _

theorem Sys2Proof.Laws.EncodeLength.cbw : Sys2Proof.Laws.EncodeLength.Statement .cbw :=
  fun _ _ => Sys2Proof.byteCount1 _

theorem Sys2Proof.Laws.EncodeLength.cwde : Sys2Proof.Laws.EncodeLength.Statement .cwde :=
  fun _ _ => Sys2Proof.byteCount1 _

theorem Sys2Proof.Laws.EncodeLength.cwd : Sys2Proof.Laws.EncodeLength.Statement .cwd :=
  fun _ _ => Sys2Proof.byteCount1 _

theorem Sys2Proof.Laws.EncodeLength.cdq : Sys2Proof.Laws.EncodeLength.Statement .cdq :=
  fun _ _ => Sys2Proof.byteCount1 _

theorem Sys2Proof.Laws.EncodeLength.lahf : Sys2Proof.Laws.EncodeLength.Statement .lahf :=
  fun _ _ => Sys2Proof.byteCount1 _

theorem Sys2Proof.Laws.EncodeLength.sahf : Sys2Proof.Laws.EncodeLength.Statement .sahf :=
  fun _ _ => Sys2Proof.byteCount1 _

theorem Sys2Proof.Laws.EncodeLength.pushf : Sys2Proof.Laws.EncodeLength.Statement .pushf :=
  fun _ _ => Sys2Proof.byteCount1 _

theorem Sys2Proof.Laws.EncodeLength.pushfd : Sys2Proof.Laws.EncodeLength.Statement .pushfd :=
  fun _ _ => Sys2Proof.byteCount1 _

theorem Sys2Proof.Laws.EncodeLength.popf : Sys2Proof.Laws.EncodeLength.Statement .popf :=
  fun _ _ => Sys2Proof.byteCount1 _

theorem Sys2Proof.Laws.EncodeLength.popfd : Sys2Proof.Laws.EncodeLength.Statement .popfd :=
  fun _ _ => Sys2Proof.byteCount1 _

theorem Sys2Proof.Laws.EncodeLength.seto (rm : Sys2Proof.RM) : Sys2Proof.Laws.EncodeLength.Statement (.seto rm) :=
  fun _ _ => Sys2Proof.byteCount_two _ _ _ _

theorem Sys2Proof.Laws.EncodeLength.setno (rm : Sys2Proof.RM) : Sys2Proof.Laws.EncodeLength.Statement (.setno rm) :=
  fun _ _ => Sys2Proof.byteCount_two _ _ _ _

theorem Sys2Proof.Laws.EncodeLength.setb (rm : Sys2Proof.RM) : Sys2Proof.Laws.EncodeLength.Statement (.setb rm) :=
  fun _ _ => Sys2Proof.byteCount_two _ _ _ _

theorem Sys2Proof.Laws.EncodeLength.setnb (rm : Sys2Proof.RM) : Sys2Proof.Laws.EncodeLength.Statement (.setnb rm) :=
  fun _ _ => Sys2Proof.byteCount_two _ _ _ _

theorem Sys2Proof.Laws.EncodeLength.setz (rm : Sys2Proof.RM) : Sys2Proof.Laws.EncodeLength.Statement (.setz rm) :=
  fun _ _ => Sys2Proof.byteCount_two _ _ _ _

theorem Sys2Proof.Laws.EncodeLength.setnz (rm : Sys2Proof.RM) : Sys2Proof.Laws.EncodeLength.Statement (.setnz rm) :=
  fun _ _ => Sys2Proof.byteCount_two _ _ _ _

theorem Sys2Proof.Laws.EncodeLength.setbe (rm : Sys2Proof.RM) : Sys2Proof.Laws.EncodeLength.Statement (.setbe rm) :=
  fun _ _ => Sys2Proof.byteCount_two _ _ _ _

theorem Sys2Proof.Laws.EncodeLength.setnbe (rm : Sys2Proof.RM) :
    Sys2Proof.Laws.EncodeLength.Statement (.setnbe rm) :=
  fun _ _ => Sys2Proof.byteCount_two _ _ _ _

theorem Sys2Proof.Laws.EncodeLength.sets (rm : Sys2Proof.RM) : Sys2Proof.Laws.EncodeLength.Statement (.sets rm) :=
  fun _ _ => Sys2Proof.byteCount_two _ _ _ _

theorem Sys2Proof.Laws.EncodeLength.setns (rm : Sys2Proof.RM) : Sys2Proof.Laws.EncodeLength.Statement (.setns rm) :=
  fun _ _ => Sys2Proof.byteCount_two _ _ _ _

theorem Sys2Proof.Laws.EncodeLength.setp (rm : Sys2Proof.RM) : Sys2Proof.Laws.EncodeLength.Statement (.setp rm) :=
  fun _ _ => Sys2Proof.byteCount_two _ _ _ _

theorem Sys2Proof.Laws.EncodeLength.setnp (rm : Sys2Proof.RM) : Sys2Proof.Laws.EncodeLength.Statement (.setnp rm) :=
  fun _ _ => Sys2Proof.byteCount_two _ _ _ _

theorem Sys2Proof.Laws.EncodeLength.setl (rm : Sys2Proof.RM) : Sys2Proof.Laws.EncodeLength.Statement (.setl rm) :=
  fun _ _ => Sys2Proof.byteCount_two _ _ _ _

theorem Sys2Proof.Laws.EncodeLength.setnl (rm : Sys2Proof.RM) : Sys2Proof.Laws.EncodeLength.Statement (.setnl rm) :=
  fun _ _ => Sys2Proof.byteCount_two _ _ _ _

theorem Sys2Proof.Laws.EncodeLength.setle (rm : Sys2Proof.RM) : Sys2Proof.Laws.EncodeLength.Statement (.setle rm) :=
  fun _ _ => Sys2Proof.byteCount_two _ _ _ _

theorem Sys2Proof.Laws.EncodeLength.setnle (rm : Sys2Proof.RM) :
    Sys2Proof.Laws.EncodeLength.Statement (.setnle rm) :=
  fun _ _ => Sys2Proof.byteCount_two _ _ _ _

theorem Sys2Proof.Laws.EncodeLength.jo (rel : Sys2Proof.Rel) : Sys2Proof.Laws.EncodeLength.Statement (.jo rel) :=
  fun _ _ => Sys2Proof.byteCount_jcc _ _

theorem Sys2Proof.Laws.EncodeLength.jno (rel : Sys2Proof.Rel) : Sys2Proof.Laws.EncodeLength.Statement (.jno rel) :=
  fun _ _ => Sys2Proof.byteCount_jcc _ _

theorem Sys2Proof.Laws.EncodeLength.jb (rel : Sys2Proof.Rel) : Sys2Proof.Laws.EncodeLength.Statement (.jb rel) :=
  fun _ _ => Sys2Proof.byteCount_jcc _ _

theorem Sys2Proof.Laws.EncodeLength.jnb (rel : Sys2Proof.Rel) : Sys2Proof.Laws.EncodeLength.Statement (.jnb rel) :=
  fun _ _ => Sys2Proof.byteCount_jcc _ _

theorem Sys2Proof.Laws.EncodeLength.jz (rel : Sys2Proof.Rel) : Sys2Proof.Laws.EncodeLength.Statement (.jz rel) :=
  fun _ _ => Sys2Proof.byteCount_jcc _ _

theorem Sys2Proof.Laws.EncodeLength.jnz (rel : Sys2Proof.Rel) : Sys2Proof.Laws.EncodeLength.Statement (.jnz rel) :=
  fun _ _ => Sys2Proof.byteCount_jcc _ _

theorem Sys2Proof.Laws.EncodeLength.jbe (rel : Sys2Proof.Rel) : Sys2Proof.Laws.EncodeLength.Statement (.jbe rel) :=
  fun _ _ => Sys2Proof.byteCount_jcc _ _

theorem Sys2Proof.Laws.EncodeLength.jnbe (rel : Sys2Proof.Rel) :
    Sys2Proof.Laws.EncodeLength.Statement (.jnbe rel) :=
  fun _ _ => Sys2Proof.byteCount_jcc _ _

theorem Sys2Proof.Laws.EncodeLength.js (rel : Sys2Proof.Rel) : Sys2Proof.Laws.EncodeLength.Statement (.js rel) :=
  fun _ _ => Sys2Proof.byteCount_jcc _ _

theorem Sys2Proof.Laws.EncodeLength.jns (rel : Sys2Proof.Rel) : Sys2Proof.Laws.EncodeLength.Statement (.jns rel) :=
  fun _ _ => Sys2Proof.byteCount_jcc _ _

theorem Sys2Proof.Laws.EncodeLength.jp (rel : Sys2Proof.Rel) : Sys2Proof.Laws.EncodeLength.Statement (.jp rel) :=
  fun _ _ => Sys2Proof.byteCount_jcc _ _

theorem Sys2Proof.Laws.EncodeLength.jnp (rel : Sys2Proof.Rel) : Sys2Proof.Laws.EncodeLength.Statement (.jnp rel) :=
  fun _ _ => Sys2Proof.byteCount_jcc _ _

theorem Sys2Proof.Laws.EncodeLength.jl (rel : Sys2Proof.Rel) : Sys2Proof.Laws.EncodeLength.Statement (.jl rel) :=
  fun _ _ => Sys2Proof.byteCount_jcc _ _

theorem Sys2Proof.Laws.EncodeLength.jnl (rel : Sys2Proof.Rel) : Sys2Proof.Laws.EncodeLength.Statement (.jnl rel) :=
  fun _ _ => Sys2Proof.byteCount_jcc _ _

theorem Sys2Proof.Laws.EncodeLength.jle (rel : Sys2Proof.Rel) : Sys2Proof.Laws.EncodeLength.Statement (.jle rel) :=
  fun _ _ => Sys2Proof.byteCount_jcc _ _

theorem Sys2Proof.Laws.EncodeLength.jnle (rel : Sys2Proof.Rel) :
    Sys2Proof.Laws.EncodeLength.Statement (.jnle rel) :=
  fun _ _ => Sys2Proof.byteCount_jcc _ _

theorem Sys2Proof.Laws.EncodeLength.jmp (rel : Sys2Proof.Rel) : Sys2Proof.Laws.EncodeLength.Statement (.jmp rel) := by
  intro _ _
  cases rel with
  | short v => exact Sys2Proof.byteCount2 _ _
  | near z => exact Sys2Proof.byteCount_iz _ _

theorem Sys2Proof.Laws.EncodeLength.jmpRm (rm : Sys2Proof.RM) : Sys2Proof.Laws.EncodeLength.Statement (.jmpRm rm) :=
  fun _ _ => Sys2Proof.byteCount_one _ _ _

theorem Sys2Proof.Laws.EncodeLength.jmpFar (p : Sys2Proof.FarPtr) :
    Sys2Proof.Laws.EncodeLength.Statement (.jmpFar p) :=
  fun _ _ => Sys2Proof.byteCount_far _ _

theorem Sys2Proof.Laws.EncodeLength.jmpFarMem (m : Sys2Proof.MemRef) :
    Sys2Proof.Laws.EncodeLength.Statement (.jmpFarMem m) :=
  fun _ _ => Sys2Proof.byteCount_one _ _ _

theorem Sys2Proof.Laws.EncodeLength.call (rel : Sys2Proof.Iz) : Sys2Proof.Laws.EncodeLength.Statement (.call rel) :=
  fun _ _ => Sys2Proof.byteCount_iz _ _

theorem Sys2Proof.Laws.EncodeLength.callRm (rm : Sys2Proof.RM) :
    Sys2Proof.Laws.EncodeLength.Statement (.callRm rm) :=
  fun _ _ => Sys2Proof.byteCount_one _ _ _

theorem Sys2Proof.Laws.EncodeLength.callFar (p : Sys2Proof.FarPtr) :
    Sys2Proof.Laws.EncodeLength.Statement (.callFar p) :=
  fun _ _ => Sys2Proof.byteCount_far _ _

theorem Sys2Proof.Laws.EncodeLength.callFarMem (m : Sys2Proof.MemRef) :
    Sys2Proof.Laws.EncodeLength.Statement (.callFarMem m) :=
  fun _ _ => Sys2Proof.byteCount_one _ _ _

theorem Sys2Proof.Laws.EncodeLength.ret : Sys2Proof.Laws.EncodeLength.Statement .ret :=
  fun _ _ => Sys2Proof.byteCount1 _

theorem Sys2Proof.Laws.EncodeLength.retImm (iw : BitVec 16) : Sys2Proof.Laws.EncodeLength.Statement (.retImm iw) :=
  fun _ _ => Sys2Proof.byteCount3 _ _ _

theorem Sys2Proof.Laws.EncodeLength.retf : Sys2Proof.Laws.EncodeLength.Statement .retf :=
  fun _ _ => Sys2Proof.byteCount1 _

theorem Sys2Proof.Laws.EncodeLength.retfImm (iw : BitVec 16) :
    Sys2Proof.Laws.EncodeLength.Statement (.retfImm iw) :=
  fun _ _ => Sys2Proof.byteCount3 _ _ _

theorem Sys2Proof.Laws.EncodeLength.iret : Sys2Proof.Laws.EncodeLength.Statement .iret :=
  fun _ _ => Sys2Proof.byteCount1 _

theorem Sys2Proof.Laws.EncodeLength.iretd : Sys2Proof.Laws.EncodeLength.Statement .iretd :=
  fun _ _ => Sys2Proof.byteCount1 _

theorem Sys2Proof.Laws.EncodeLength.loop (rel : BitVec 8) : Sys2Proof.Laws.EncodeLength.Statement (.loop rel) :=
  fun _ _ => Sys2Proof.byteCount2 _ _

theorem Sys2Proof.Laws.EncodeLength.loope (rel : BitVec 8) : Sys2Proof.Laws.EncodeLength.Statement (.loope rel) :=
  fun _ _ => Sys2Proof.byteCount2 _ _

theorem Sys2Proof.Laws.EncodeLength.loopne (rel : BitVec 8) : Sys2Proof.Laws.EncodeLength.Statement (.loopne rel) :=
  fun _ _ => Sys2Proof.byteCount2 _ _

theorem Sys2Proof.Laws.EncodeLength.jcxz (rel : BitVec 8) : Sys2Proof.Laws.EncodeLength.Statement (.jcxz rel) :=
  fun _ _ => Sys2Proof.byteCount2 _ _

theorem Sys2Proof.Laws.EncodeLength.int (v : Sys2Proof.Byte) : Sys2Proof.Laws.EncodeLength.Statement (.int v) :=
  fun _ _ => Sys2Proof.byteCount2 _ _

theorem Sys2Proof.Laws.EncodeLength.int3 : Sys2Proof.Laws.EncodeLength.Statement .int3 :=
  fun _ _ => Sys2Proof.byteCount1 _

theorem Sys2Proof.Laws.EncodeLength.into : Sys2Proof.Laws.EncodeLength.Statement .into :=
  fun _ _ => Sys2Proof.byteCount1 _

theorem Sys2Proof.Laws.EncodeLength.bound (r : Sys2Proof.Num8) (m : Sys2Proof.MemRef) :
    Sys2Proof.Laws.EncodeLength.Statement (.bound r m) :=
  fun _ _ => Sys2Proof.byteCount_one _ _ _

theorem Sys2Proof.Laws.EncodeLength.movsb : Sys2Proof.Laws.EncodeLength.Statement .movsb :=
  fun _ _ => Sys2Proof.byteCount1 _

theorem Sys2Proof.Laws.EncodeLength.movsw : Sys2Proof.Laws.EncodeLength.Statement .movsw :=
  fun _ _ => Sys2Proof.byteCount1 _

theorem Sys2Proof.Laws.EncodeLength.movsd : Sys2Proof.Laws.EncodeLength.Statement .movsd :=
  fun _ _ => Sys2Proof.byteCount1 _

theorem Sys2Proof.Laws.EncodeLength.cmpsb : Sys2Proof.Laws.EncodeLength.Statement .cmpsb :=
  fun _ _ => Sys2Proof.byteCount1 _

theorem Sys2Proof.Laws.EncodeLength.cmpsw : Sys2Proof.Laws.EncodeLength.Statement .cmpsw :=
  fun _ _ => Sys2Proof.byteCount1 _

theorem Sys2Proof.Laws.EncodeLength.cmpsd : Sys2Proof.Laws.EncodeLength.Statement .cmpsd :=
  fun _ _ => Sys2Proof.byteCount1 _

theorem Sys2Proof.Laws.EncodeLength.scasb : Sys2Proof.Laws.EncodeLength.Statement .scasb :=
  fun _ _ => Sys2Proof.byteCount1 _

theorem Sys2Proof.Laws.EncodeLength.scasw : Sys2Proof.Laws.EncodeLength.Statement .scasw :=
  fun _ _ => Sys2Proof.byteCount1 _

theorem Sys2Proof.Laws.EncodeLength.scasd : Sys2Proof.Laws.EncodeLength.Statement .scasd :=
  fun _ _ => Sys2Proof.byteCount1 _

theorem Sys2Proof.Laws.EncodeLength.lodsb : Sys2Proof.Laws.EncodeLength.Statement .lodsb :=
  fun _ _ => Sys2Proof.byteCount1 _

theorem Sys2Proof.Laws.EncodeLength.lodsw : Sys2Proof.Laws.EncodeLength.Statement .lodsw :=
  fun _ _ => Sys2Proof.byteCount1 _

theorem Sys2Proof.Laws.EncodeLength.lodsd : Sys2Proof.Laws.EncodeLength.Statement .lodsd :=
  fun _ _ => Sys2Proof.byteCount1 _

theorem Sys2Proof.Laws.EncodeLength.stosb : Sys2Proof.Laws.EncodeLength.Statement .stosb :=
  fun _ _ => Sys2Proof.byteCount1 _

theorem Sys2Proof.Laws.EncodeLength.stosw : Sys2Proof.Laws.EncodeLength.Statement .stosw :=
  fun _ _ => Sys2Proof.byteCount1 _

theorem Sys2Proof.Laws.EncodeLength.stosd : Sys2Proof.Laws.EncodeLength.Statement .stosd :=
  fun _ _ => Sys2Proof.byteCount1 _

theorem Sys2Proof.Laws.EncodeLength.insb : Sys2Proof.Laws.EncodeLength.Statement .insb :=
  fun _ _ => Sys2Proof.byteCount1 _

theorem Sys2Proof.Laws.EncodeLength.insw : Sys2Proof.Laws.EncodeLength.Statement .insw :=
  fun _ _ => Sys2Proof.byteCount1 _

theorem Sys2Proof.Laws.EncodeLength.insd : Sys2Proof.Laws.EncodeLength.Statement .insd :=
  fun _ _ => Sys2Proof.byteCount1 _

theorem Sys2Proof.Laws.EncodeLength.outsb : Sys2Proof.Laws.EncodeLength.Statement .outsb :=
  fun _ _ => Sys2Proof.byteCount1 _

theorem Sys2Proof.Laws.EncodeLength.outsw : Sys2Proof.Laws.EncodeLength.Statement .outsw :=
  fun _ _ => Sys2Proof.byteCount1 _

theorem Sys2Proof.Laws.EncodeLength.outsd : Sys2Proof.Laws.EncodeLength.Statement .outsd :=
  fun _ _ => Sys2Proof.byteCount1 _

theorem Sys2Proof.Laws.EncodeLength.inp (w : Sys2Proof.OpW) (p : Sys2Proof.PortArg) :
    Sys2Proof.Laws.EncodeLength.Statement (.inp w p) := by
  intro _ _
  cases w <;> cases p <;> first | exact Sys2Proof.byteCount2 _ _ | exact Sys2Proof.byteCount1 _

theorem Sys2Proof.Laws.EncodeLength.outp (w : Sys2Proof.OpW) (p : Sys2Proof.PortArg) :
    Sys2Proof.Laws.EncodeLength.Statement (.outp w p) := by
  intro _ _
  cases w <;> cases p <;> first | exact Sys2Proof.byteCount2 _ _ | exact Sys2Proof.byteCount1 _

theorem Sys2Proof.Laws.EncodeLength.hlt : Sys2Proof.Laws.EncodeLength.Statement .hlt :=
  fun _ _ => Sys2Proof.byteCount1 _

theorem Sys2Proof.Laws.EncodeLength.cli : Sys2Proof.Laws.EncodeLength.Statement .cli :=
  fun _ _ => Sys2Proof.byteCount1 _

theorem Sys2Proof.Laws.EncodeLength.sti : Sys2Proof.Laws.EncodeLength.Statement .sti :=
  fun _ _ => Sys2Proof.byteCount1 _

theorem Sys2Proof.Laws.EncodeLength.wait : Sys2Proof.Laws.EncodeLength.Statement .wait :=
  fun _ _ => Sys2Proof.byteCount1 _

theorem Sys2Proof.Laws.EncodeLength.arpl (rm : Sys2Proof.RM) (r : Sys2Proof.Num8) :
    Sys2Proof.Laws.EncodeLength.Statement (.arpl rm r) :=
  fun _ _ => Sys2Proof.byteCount_one _ _ _

theorem Sys2Proof.Laws.EncodeLength.sldt (rm : Sys2Proof.RM) : Sys2Proof.Laws.EncodeLength.Statement (.sldt rm) :=
  fun _ _ => Sys2Proof.byteCount_two _ _ _ _

theorem Sys2Proof.Laws.EncodeLength.str (rm : Sys2Proof.RM) : Sys2Proof.Laws.EncodeLength.Statement (.str rm) :=
  fun _ _ => Sys2Proof.byteCount_two _ _ _ _

theorem Sys2Proof.Laws.EncodeLength.lldt (rm : Sys2Proof.RM) : Sys2Proof.Laws.EncodeLength.Statement (.lldt rm) :=
  fun _ _ => Sys2Proof.byteCount_two _ _ _ _

theorem Sys2Proof.Laws.EncodeLength.ltr (rm : Sys2Proof.RM) : Sys2Proof.Laws.EncodeLength.Statement (.ltr rm) :=
  fun _ _ => Sys2Proof.byteCount_two _ _ _ _

theorem Sys2Proof.Laws.EncodeLength.sgdt (m : Sys2Proof.MemRef) : Sys2Proof.Laws.EncodeLength.Statement (.sgdt m) :=
  fun _ _ => Sys2Proof.byteCount_two _ _ _ _

theorem Sys2Proof.Laws.EncodeLength.sidt (m : Sys2Proof.MemRef) : Sys2Proof.Laws.EncodeLength.Statement (.sidt m) :=
  fun _ _ => Sys2Proof.byteCount_two _ _ _ _

theorem Sys2Proof.Laws.EncodeLength.lgdt (m : Sys2Proof.MemRef) : Sys2Proof.Laws.EncodeLength.Statement (.lgdt m) :=
  fun _ _ => Sys2Proof.byteCount_two _ _ _ _

theorem Sys2Proof.Laws.EncodeLength.lidt (m : Sys2Proof.MemRef) : Sys2Proof.Laws.EncodeLength.Statement (.lidt m) :=
  fun _ _ => Sys2Proof.byteCount_two _ _ _ _

theorem Sys2Proof.Laws.EncodeLength.smsw (rm : Sys2Proof.RM) : Sys2Proof.Laws.EncodeLength.Statement (.smsw rm) :=
  fun _ _ => Sys2Proof.byteCount_two _ _ _ _

theorem Sys2Proof.Laws.EncodeLength.lmsw (rm : Sys2Proof.RM) : Sys2Proof.Laws.EncodeLength.Statement (.lmsw rm) :=
  fun _ _ => Sys2Proof.byteCount_two _ _ _ _

theorem Sys2Proof.Laws.EncodeLength.clts : Sys2Proof.Laws.EncodeLength.Statement .clts :=
  fun _ _ => Sys2Proof.byteCount2 _ _

theorem Sys2Proof.Laws.EncodeLength.rdmsr : Sys2Proof.Laws.EncodeLength.Statement .rdmsr :=
  fun _ _ => Sys2Proof.byteCount2 _ _

theorem Sys2Proof.Laws.EncodeLength.wrmsr : Sys2Proof.Laws.EncodeLength.Statement .wrmsr :=
  fun _ _ => Sys2Proof.byteCount2 _ _

theorem Sys2Proof.Laws.EncodeLength.ud (f : Sys2Proof.UdForm) : Sys2Proof.Laws.EncodeLength.Statement (.ud f) :=
  fun _ _ => Sys2Proof.byteCount_ud _
end

