-- ==== Sys2Proof/Tests/Slice0.lean ====
section
/-! SUPPORT. The model's own tests: an ill-formed term for every check, words of the spec's encoding tables, one-step
vectors of 95_test_vectors.md, and for every statement with hypotheses a state and operands that meet them. -/

namespace Sys2Proof.Tests

open Sys2Proof.Machine

set_option Elab.async false

/-! ## Helpers -/

/-- 16-bit operand and address size. -/
def real16 : DecMode := ⟨.s16, .s16⟩

/-- 32-bit operand and address size. -/
def flat32 : DecMode := ⟨.s32, .s32⟩

/-- Operand size 16, address size 32: a 67 prefix in 16-bit code. -/
def mixed : DecMode := ⟨.s16, .s32⟩

/-- The answer is a next state of which `p` holds. -/
def ends (o : Out) (p : State → Bool) : Bool :=
  match o with
  | .next t => p t
  | .fault _ => false
  | .refused _ => false

/-- The next state of an answer; the reset state where there is none. -/
def stateOf (o : Out) : State :=
  match o with
  | .next t => t
  | .fault _ => State.reset
  | .refused _ => State.reset

theorem next_of_ends : ∀ {o : Out}, ends o (fun _ => true) = true → o = .next (stateOf o)
  | .next _, _ => rfl
  | .fault _, h => by cases h
  | .refused _, h => by cases h

/-- Give consecutive addresses values. -/
def setMany (l : List Host.Cell) : Word → List Byte → List Host.Cell
  | _, [] => l
  | a, b :: bs => setMany (Sparse.set 0 l a.toNat b) (a + 1) bs

/-- Give bytes data and an attribute byte, from an address on. -/
def fill (at_ : Byte) (m : Memory) (a : Word) (bs : List Byte) : Memory :=
  { m with data := setMany m.data a bs, attr := setMany m.attr a (bs.map fun _ => at_) }

/-- Whether the bytes at an address are all readable and hold the given data. -/
def holdsAll (m : Memory) (a : Word) (l : List Byte) : Bool :=
  ((span l.length a).zip l).all fun c => m.permitted .read c.1 && m.dataAt c.1 == c.2

theorem holdsAll_iff {m : Memory} {a : Word} {l : List Byte} : holdsAll m a l = true ↔ m.holds a l := by
  simp [holdsAll, Memory.holds]

/-- The cells of a block of bytes, in the canonical form. -/
def cells (a : Nat) (bs : List Byte) : List Host.Cell :=
  (((List.range bs.length).map (a + ·)).zip bs).filter fun c => decide (c.2 ≠ 0)

/-- The state whose memory holds the given blocks, in rising order, readable, writable, executable and valid. -/
def holding (l : List (Nat × List Byte)) (s : State) : State :=
  s.setMem
    { data := l.flatMap fun c => cells c.1 c.2
      attr := l.flatMap fun c => cells c.1 (c.2.map fun _ => 0x0F)
      invalid := false }

/-- The reset state with general registers EAX, ECX, EDX, EBX, ESP, EBP, ESI, EDI. -/
def regs (a c d b sp bp si di : Word) : State := State.reset.setRegs ⟨a, c, d, b, sp, bp, si, di⟩

/-- 32-bit code and stack segments. -/
def flat (s : State) : State :=
  s.setSegs { s.segs with cs := { s.segs.cs with acc := 0xC9B }, ss := { s.segs.ss with acc := 0xC93 } }

/-- Protected mode at a privilege level, with an IOPL. -/
def level (cpl iopl : BitVec 2) (s : State) : State :=
  ((s.setSys { s.sys with cr := s.sys.cr.set .n0 1 }).setSegs
    { s.segs with cs := { s.segs.cs with sel := 0x0008 + cpl.setWidth 16 } }).setFlags { s.flags with iopl := iopl }

/-- Flags by their word. -/
def eflags (v : Word) (s : State) : State := s.setFlags (s.flags.write false 0 0 v)

/-- What a primitive answers: the result, and CF PF AF ZF SF OF as 0, 1, or 2 where the spec leaves the flag open. -/
def gives {n : Nat} (x : BitVec n × Eflags) (r : BitVec n) (e : List Nat) : Bool :=
  x.1 == r && (e.zip [x.2.cf, x.2.pf, x.2.af, x.2.zf, x.2.sf, x.2.ovf]).all fun c => c.1 == 2 || c.2.toNat == c.1

/-- Flags with only CF as given. -/
def carry (c : Bool) : Eflags := { Eflags.reset with cf := c }

/-- The interrupt an answer leaves pending. -/
def pends (o : Out) (p : Pending) : Bool := ends o fun t => t.intr.pending == some p

/-! ## Ill-formed terms: one for every check of WellFormed.lean -/

theorem test_wf_refuses : ∀ i ∈ [
    Instr.inc (.e .v (.mem (.m16 .n6 .none))),        -- row 6 of the 16-bit table without a displacement
    .inc (.e .v (.mem (.m32 .n0 .none))),             -- 32-bit addressing at address size 16
    .inc (.e .v (.mem (.abs32 0))),
    .inc (.e .v (.mem (.sib .n0 .n1 0 .none))),
    .inc (.e .v (.mem (.sibAbs .n1 0 0))),
    .mov (.accOff .v (.o32 0)),                       -- a 32-bit moffs at address size 16
    .mov (.rIz .n0 (.d 0)),                           -- a 32-bit immediate at operand size 16
    .add (.accIz (.d 0)),
    .add (.rmR .v (.mem (.abs32 0)) .n0),
    .test (.evIz (.reg .n0) (.d 0)),
    .push (.iz (.d 0)),
    .push (.ev (.mem (.abs32 0))),
    .pop (.ev (.mem (.abs32 0))),
    .imul3 .n0 (.reg .n0) (.iz (.d 0)),
    .jmp (.near (.d 0)),
    .call (.d 0),
    .jmpFar ⟨.d 0, 0⟩,
    .xchg (.acc .n0),                                 -- the word of NOP
    .movToSeg .cs (.reg .n0),                         -- MOV CS and POP CS do not exist
    .popSeg .cs,
    .pushad,                                          -- the 32-bit name at operand size 16
    .movsd,
    .ud (.two 0x06),                                  -- an admitted second byte
    .ud (.slot .lea .n0 (.mem (.m16 .n0 .none))),     -- a legal form
    .ud (.slot .grp5 .n0 (.reg .n0)),
    .ud (.slot .grp8 .n4 (.reg .n0)),
    .ud (.esc .n0 .n0 (.mem (.abs32 0)))], i.wf real16 = false := by decide

theorem test_wf_refuses_at_32 : ∀ i ∈ [
    Instr.inc (.e .v (.mem (.m16 .n0 .none))),        -- 16-bit addressing at address size 32
    .inc (.e .v (.mem (.abs16 0))),
    .inc (.e .v (.mem (.m32 .n4 .none))),             -- rm 4 is the SIB escape
    .inc (.e .v (.mem (.m32 .n5 .none))),             -- base 5 without a displacement
    .inc (.e .v (.mem (.sib .n5 .n0 0 .none))),
    .mov (.offAcc .v (.o16 0)),
    .mov (.evIz (.reg .n0) (.w 0)),
    .pusha,
    .cbw,
    .iret,
    .stosw], i.wf flat32 = false := by decide

theorem test_wf_refuses_illegal_slots : ∀ c ∈ [
    (UdOp.bound, Num8.n0, RM.mem (.abs16 0)), (.movFromSeg, .n5, .reg .n0), (.movToSeg, .n0, .reg .n0),
    (.popRm, .n0, .reg .n0), (.les, .n0, .mem (.abs16 0)), (.lds, .n0, .mem (.abs16 0)),
    (.movEbIb, .n0, .reg .n0), (.movEvIz, .n0, .reg .n0), (.grp4, .n1, .reg .n0), (.grp5, .n3, .mem (.abs16 0)),
    (.grp6, .n3, .reg .n0), (.grp7, .n4, .reg .n0), (.lss, .n0, .mem (.abs16 0)), (.lfs, .n0, .mem (.abs16 0)),
    (.lgs, .n0, .mem (.abs16 0))], (Instr.ud (.slot c.1 c.2.1 c.2.2)).wf real16 = false := by decide

/-! ## Decoding -/

/-- Words written out from the encoding tables (30_encoding R174). -/
theorem test_decode_prefixes : ∀ c ∈ [
    (real16, ([0x26] : List Byte), Instr.pfxEs),
    (real16, [0x2E], Instr.pfxCs),
    (real16, [0x36], Instr.pfxSs),
    (real16, [0x3E], Instr.pfxDs),
    (real16, [0x64], Instr.pfxFs),
    (real16, [0x65], Instr.pfxGs),
    (real16, [0x66], Instr.pfxOpSize),
    (real16, [0x67], Instr.pfxAdSize),
    (real16, [0xF0], Instr.pfxLock),
    (real16, [0xF2], Instr.pfxRepne),
    (real16, [0xF3], Instr.pfxRep)],
    decode c.1 c.2.1 = .ok (c.2.2, []) := by decide +kernel

/-- Words written out from the encoding tables (95_test_vectors V4.1, V4.2). -/
theorem test_decode_addressing : ∀ c ∈ [
    (real16, ([0x8B, 0x00] : List Byte), Instr.mov (.rRm .v .n0 (.mem (.m16 .n0 .none)))),
    (real16, [0x8B, 0x02], Instr.mov (.rRm .v .n0 (.mem (.m16 .n2 .none)))),
    (real16, [0x8B, 0x06, 0x34, 0x12], Instr.mov (.rRm .v .n0 (.mem (.abs16 0x1234)))),
    (real16, [0x8B, 0x46, 0x02], Instr.mov (.rRm .v .n0 (.mem (.m16 .n6 (.d8 0x02))))),
    (real16, [0x8B, 0x40, 0xFE], Instr.mov (.rRm .v .n0 (.mem (.m16 .n0 (.d8 0xFE))))),
    (real16, [0x8B, 0x87, 0x00, 0x80], Instr.mov (.rRm .v .n0 (.mem (.m16 .n7 (.d16 0x8000))))),
    (real16, [0x8B, 0xC3], Instr.mov (.rRm .v .n0 (.reg .n3))),
    (flat32, [0x8B, 0x04, 0x8B], Instr.mov (.rRm .v .n0 (.mem (.sib .n3 .n1 2 .none)))),
    (flat32, [0x8B, 0x44, 0x24, 0x08], Instr.mov (.rRm .v .n0 (.mem (.sib .n4 .n4 0 (.d8 0x08))))),
    (flat32, [0x8B, 0x04, 0x25, 0x78, 0x56, 0x34, 0x12], Instr.mov (.rRm .v .n0 (.mem (.sibAbs .n4 0 0x12345678)))),
    (flat32, [0x8B, 0x05, 0x78, 0x56, 0x34, 0x12], Instr.mov (.rRm .v .n0 (.mem (.abs32 0x12345678)))),
    (flat32, [0x8B, 0x45, 0xFC], Instr.mov (.rRm .v .n0 (.mem (.m32 .n5 (.d8 0xFC))))),
    (flat32, [0x8B, 0x04, 0x6D, 0x00, 0x00, 0x00, 0x00], Instr.mov (.rRm .v .n0 (.mem (.sibAbs .n5 1 0)))),
    (flat32, [0x8B, 0x84, 0x24, 0x00, 0x01, 0x00, 0x00], Instr.mov (.rRm .v .n0 (.mem (.sib .n4 .n4 0 (.d32 0x100))))),
    (flat32, [0x8B, 0x04, 0x24], Instr.mov (.rRm .v .n0 (.mem (.sib .n4 .n4 0 .none))))],
    decode c.1 c.2.1 = .ok (c.2.2, []) := by decide +kernel

/-- Words written out from the encoding tables (30_encoding R201, R204). -/
theorem test_decode_alu : ∀ c ∈ [
    (real16, ([0x00, 0xC3] : List Byte), Instr.add (.rmR .b (.reg .n3) .n0)),
    (real16, [0x09, 0xD8], Instr.or (.rmR .v (.reg .n0) .n3)),
    (real16, [0x12, 0x07], Instr.adc (.rRm .b .n0 (.mem (.m16 .n7 .none)))),
    (real16, [0x1B, 0x46, 0x02], Instr.sbb (.rRm .v .n0 (.mem (.m16 .n6 (.d8 0x02))))),
    (real16, [0x24, 0x0F], Instr.and (.accIb 0x0F)),
    (real16, [0x2D, 0x34, 0x12], Instr.sub (.accIz (.w 0x1234))),
    (real16, [0x80, 0xF3, 0x01], Instr.xor (.ebIb (.reg .n3) 0x01)),
    (real16, [0x82, 0xFB, 0x10], Instr.cmp (.ebIb (.reg .n3) 0x10)),
    (real16, [0x81, 0xC3, 0x34, 0x12], Instr.add (.evIz (.reg .n3) (.w 0x1234))),
    (real16, [0x83, 0xC0, 0xFF], Instr.add (.evIb (.reg .n0) 0xFF)),
    (real16, [0x84, 0xC3], Instr.test (.rmR .b (.reg .n3) .n0)),
    (real16, [0xA8, 0x01], Instr.test (.accIb 0x01)),
    (real16, [0xF7, 0x06, 0x00, 0x20, 0x34, 0x12], Instr.test (.evIz (.mem (.abs16 0x2000)) (.w 0x1234))),
    (real16, [0xF6, 0xC8, 0x01], Instr.test (.ebIb (.reg .n0) 0x01))],
    decode c.1 c.2.1 = .ok (c.2.2, []) := by decide +kernel

/-- Words written out from the encoding tables (30_encoding R201, R204; V4.4). -/
theorem test_decode_unary : ∀ c ∈ [
    (real16, ([0x40] : List Byte), Instr.inc (.reg .n0)),
    (real16, [0x4B], Instr.dec (.reg .n3)),
    (real16, [0xFE, 0x06, 0x00, 0x20], Instr.inc (.e .b (.mem (.abs16 0x2000)))),
    (real16, [0xFF, 0xC9], Instr.dec (.e .v (.reg .n1))),
    (real16, [0xF7, 0x16, 0x00, 0x20], Instr.not .v (.mem (.abs16 0x2000))),
    (real16, [0xF6, 0xDB], Instr.neg .b (.reg .n3)),
    (real16, [0xF6, 0xE3], Instr.mul .b (.reg .n3)),
    (real16, [0xF7, 0xEB], Instr.imul .v (.reg .n3)),
    (real16, [0x0F, 0xAF, 0xC3], Instr.imul2 .n0 (.reg .n3)),
    (real16, [0x69, 0xC3, 0xE8, 0x03], Instr.imul3 .n0 (.reg .n3) (.iz (.w 0x03E8))),
    (real16, [0x6B, 0xC3, 0xFD], Instr.imul3 .n0 (.reg .n3) (.ib 0xFD)),
    (real16, [0xF6, 0xF3], Instr.div .b (.reg .n3)),
    (real16, [0xF7, 0xFB], Instr.idiv .v (.reg .n3))],
    decode c.1 c.2.1 = .ok (c.2.2, []) := by decide +kernel

/-- Words written out from the encoding tables (30_encoding R202, R204; V6.2, V6.3). -/
theorem test_decode_shifts : ∀ c ∈ [
    (real16, ([0xC0, 0xC3, 0x04] : List Byte), Instr.rol .b (.reg .n3) (.imm 0x04)),
    (real16, [0xD1, 0xC8], Instr.ror .v (.reg .n0) .one),
    (real16, [0xD2, 0xD3], Instr.rcl .b (.reg .n3) .cl),
    (real16, [0xD3, 0xDB], Instr.rcr .v (.reg .n3) .cl),
    (flat32, [0xC1, 0xE0, 0x20], Instr.shl .v (.reg .n0) (.imm 0x20)),
    (real16, [0xC1, 0xF0, 0x01], Instr.shl .v (.reg .n0) (.imm 0x01)),
    (real16, [0xD0, 0xE8], Instr.shr .b (.reg .n0) .one),
    (real16, [0xD1, 0xF8], Instr.sar .v (.reg .n0) .one),
    (real16, [0x0F, 0xA4, 0xD8, 0x04], Instr.shld (.reg .n0) .n3 (.imm 0x04)),
    (real16, [0x0F, 0xAD, 0xD8], Instr.shrd (.reg .n0) .n3 .cl)],
    decode c.1 c.2.1 = .ok (c.2.2, []) := by decide +kernel

/-- Words written out from the encoding tables (30_encoding R202, R204; V7.10). -/
theorem test_decode_bits : ∀ c ∈ [
    (real16, ([0x0F, 0xBA, 0xE0, 0x07] : List Byte), Instr.bt (.reg .n0) (.imm 0x07)),
    (real16, [0x0F, 0xA3, 0x07], Instr.bt (.mem (.m16 .n7 .none)) (.reg .n0)),
    (real16, [0x0F, 0xAB, 0xD8], Instr.bts (.reg .n0) (.reg .n3)),
    (real16, [0x0F, 0xBA, 0xF0, 0x00], Instr.btr (.reg .n0) (.imm 0x00)),
    (real16, [0x0F, 0xBB, 0xD8], Instr.btc (.reg .n0) (.reg .n3)),
    (real16, [0x0F, 0xBC, 0xC3], Instr.bsf .n0 (.reg .n3)),
    (real16, [0x0F, 0xBD, 0xC3], Instr.bsr .n0 (.reg .n3))],
    decode c.1 c.2.1 = .ok (c.2.2, []) := by decide +kernel

/-- Words written out from the encoding tables (30_encoding R201). -/
theorem test_decode_single_bytes : ∀ c ∈ [
    (real16, ([0x27] : List Byte), Instr.daa),
    (real16, [0x2F], Instr.das),
    (real16, [0x37], Instr.aaa),
    (real16, [0x3F], Instr.aas),
    (real16, [0xD4, 0x0A], Instr.aam 0x0A),
    (real16, [0xD5, 0x0A], Instr.aad 0x0A),
    (real16, [0xF8], Instr.clc),
    (real16, [0xF9], Instr.stc),
    (real16, [0xF5], Instr.cmc),
    (real16, [0xFC], Instr.cld),
    (real16, [0xFD], Instr.std),
    (real16, [0xFA], Instr.cli),
    (real16, [0xFB], Instr.sti),
    (real16, [0xF4], Instr.hlt),
    (real16, [0x9B], Instr.wait),
    (real16, [0x9E], Instr.sahf),
    (real16, [0x9F], Instr.lahf)],
    decode c.1 c.2.1 = .ok (c.2.2, []) := by decide +kernel

/-- Words written out from the encoding tables (30_encoding R201, R202; V4.4, V5.1, V5.2). -/
theorem test_decode_moves : ∀ c ∈ [
    (real16, ([0xB8, 0x34, 0x12] : List Byte), Instr.mov (.rIz .n0 (.w 0x1234))),
    (real16, [0xB4, 0xFF], Instr.mov (.rIb .n4 0xFF)),
    (real16, [0x88, 0xE0], Instr.mov (.rmR .b (.reg .n0) .n4)),
    (real16, [0xC6, 0x07, 0x41], Instr.mov (.ebIb (.mem (.m16 .n7 .none)) 0x41)),
    (flat32, [0xC7, 0x05, 0x00, 0x00, 0x00, 0x00, 0x78, 0x56, 0x34, 0x12], Instr.mov (.evIz (.mem (.abs32 0)) (.d 0x12345678))),
    (mixed, [0xA1, 0x78, 0x56, 0x34, 0x12], Instr.mov (.accOff .v (.o32 0x12345678))),
    (real16, [0xA2, 0x34, 0x12], Instr.mov (.offAcc .b (.o16 0x1234))),
    (real16, [0x8C, 0xD8], Instr.movFromSeg .ds (.reg .n0)),
    (real16, [0x8E, 0xC0], Instr.movToSeg .es (.reg .n0)),
    (real16, [0x0F, 0x20, 0xD9], Instr.movFromCr .n1 .n3),
    (real16, [0x0F, 0x22, 0x19], Instr.movToCr .n3 .n1),
    (real16, [0x0F, 0x21, 0xF8], Instr.movFromDr .n0 .n7),
    (real16, [0x0F, 0x23, 0xF8], Instr.movToDr .n7 .n0),
    (flat32, [0x0F, 0xB6, 0xC3], Instr.movzx .b .n0 (.reg .n3)),
    (flat32, [0x0F, 0xBF, 0xC3], Instr.movsx .v .n0 (.reg .n3)),
    (real16, [0x8D, 0x40, 0xFE], Instr.lea .n0 (.m16 .n0 (.d8 0xFE))),
    (real16, [0x98], Instr.cbw),
    (flat32, [0x98], Instr.cwde),
    (real16, [0x99], Instr.cwd),
    (flat32, [0x99], Instr.cdq)],
    decode c.1 c.2.1 = .ok (c.2.2, []) := by decide +kernel

/-- Words written out from the encoding tables (30_encoding R201, R202; V4.4). -/
theorem test_decode_stack : ∀ c ∈ [
    (real16, ([0x06] : List Byte), Instr.push (.seg .es)),
    (real16, [0x0F, 0xA8], Instr.push (.seg .gs)),
    (real16, [0x50], Instr.push (.reg .n0)),
    (real16, [0x68, 0x34, 0x12], Instr.push (.iz (.w 0x1234))),
    (real16, [0x6A, 0xFF], Instr.push (.ib 0xFF)),
    (real16, [0xFF, 0x36, 0x00, 0x20], Instr.push (.ev (.mem (.abs16 0x2000)))),
    (real16, [0x5C], Instr.pop (.reg .n4)),
    (real16, [0x8F, 0x06, 0x00, 0x20], Instr.pop (.ev (.mem (.abs16 0x2000)))),
    (real16, [0x1F], Instr.popSeg .ds),
    (real16, [0x0F, 0xA1], Instr.popSeg .fs),
    (real16, [0x60], Instr.pusha),
    (flat32, [0x60], Instr.pushad),
    (real16, [0x61], Instr.popa),
    (flat32, [0x61], Instr.popad),
    (real16, [0xC8, 0x08, 0x00, 0x02], Instr.enter 0x0008 0x02),
    (real16, [0xC9], Instr.leave),
    (real16, [0x9C], Instr.pushf),
    (flat32, [0x9C], Instr.pushfd),
    (real16, [0x9D], Instr.popf),
    (flat32, [0x9D], Instr.popfd)],
    decode c.1 c.2.1 = .ok (c.2.2, []) := by decide +kernel

/-- Words written out from the encoding tables (30_encoding R201, R202; V5.6). -/
theorem test_decode_exchanges : ∀ c ∈ [
    (real16, ([0x87, 0xD9] : List Byte), Instr.xchg (.rmR .v (.reg .n1) .n3)),
    (real16, [0x93], Instr.xchg (.acc .n3)),
    (real16, [0x90], Instr.nop),
    (real16, [0xD7], Instr.xlat),
    (real16, [0xC5, 0x1E, 0x10, 0x00], Instr.lds .n3 (.abs16 0x10)),
    (real16, [0xC4, 0x1E, 0x10, 0x00], Instr.les .n3 (.abs16 0x10)),
    (real16, [0x0F, 0xB4, 0x1E, 0x10, 0x00], Instr.lfs .n3 (.abs16 0x10)),
    (real16, [0x0F, 0xB5, 0x1E, 0x10, 0x00], Instr.lgs .n3 (.abs16 0x10)),
    (real16, [0x0F, 0xB2, 0x1E, 0x10, 0x00], Instr.lss .n3 (.abs16 0x10))],
    decode c.1 c.2.1 = .ok (c.2.2, []) := by decide +kernel

/-- Words written out from the encoding tables (30_encoding R202; 43_control_transfer R481). -/
theorem test_decode_setcc : ∀ c ∈ [
    (real16, ([0x0F, 0x90, 0xC3] : List Byte), Instr.seto (.reg .n3)),
    (real16, [0x0F, 0x91, 0xC3], Instr.setno (.reg .n3)),
    (real16, [0x0F, 0x92, 0xC3], Instr.setb (.reg .n3)),
    (real16, [0x0F, 0x93, 0xC3], Instr.setnb (.reg .n3)),
    (real16, [0x0F, 0x94, 0xC3], Instr.setz (.reg .n3)),
    (real16, [0x0F, 0x95, 0xC3], Instr.setnz (.reg .n3)),
    (real16, [0x0F, 0x96, 0xC3], Instr.setbe (.reg .n3)),
    (real16, [0x0F, 0x97, 0xC3], Instr.setnbe (.reg .n3)),
    (real16, [0x0F, 0x98, 0xC3], Instr.sets (.reg .n3)),
    (real16, [0x0F, 0x99, 0xC3], Instr.setns (.reg .n3)),
    (real16, [0x0F, 0x9A, 0xC3], Instr.setp (.reg .n3)),
    (real16, [0x0F, 0x9B, 0xC3], Instr.setnp (.reg .n3)),
    (real16, [0x0F, 0x9C, 0xC3], Instr.setl (.reg .n3)),
    (real16, [0x0F, 0x9D, 0xC3], Instr.setnl (.reg .n3)),
    (real16, [0x0F, 0x9E, 0xC3], Instr.setle (.reg .n3)),
    (real16, [0x0F, 0x9F, 0xC3], Instr.setnle (.reg .n3))],
    decode c.1 c.2.1 = .ok (c.2.2, []) := by decide +kernel

/-- Words written out from the encoding tables (30_encoding R201; 43_control_transfer R481). -/
theorem test_decode_jcc_short : ∀ c ∈ [
    (real16, ([0x70, 0x05] : List Byte), Instr.jo (.short 0x05)),
    (real16, [0x71, 0x05], Instr.jno (.short 0x05)),
    (real16, [0x72, 0x05], Instr.jb (.short 0x05)),
    (real16, [0x73, 0x05], Instr.jnb (.short 0x05)),
    (real16, [0x74, 0x05], Instr.jz (.short 0x05)),
    (real16, [0x75, 0x05], Instr.jnz (.short 0x05)),
    (real16, [0x76, 0x05], Instr.jbe (.short 0x05)),
    (real16, [0x77, 0x05], Instr.jnbe (.short 0x05)),
    (real16, [0x78, 0x05], Instr.js (.short 0x05)),
    (real16, [0x79, 0x05], Instr.jns (.short 0x05)),
    (real16, [0x7A, 0x05], Instr.jp (.short 0x05)),
    (real16, [0x7B, 0x05], Instr.jnp (.short 0x05)),
    (real16, [0x7C, 0x05], Instr.jl (.short 0x05)),
    (real16, [0x7D, 0x05], Instr.jnl (.short 0x05)),
    (real16, [0x7E, 0x05], Instr.jle (.short 0x05)),
    (real16, [0x7F, 0x05], Instr.jnle (.short 0x05))],
    decode c.1 c.2.1 = .ok (c.2.2, []) := by decide +kernel

/-- Words written out from the encoding tables (30_encoding R202; 43_control_transfer R481). -/
theorem test_decode_jcc_near : ∀ c ∈ [
    (real16, ([0x0F, 0x80, 0x10, 0x00] : List Byte), Instr.jo (.near (.w 0x0010))),
    (real16, [0x0F, 0x81, 0x10, 0x00], Instr.jno (.near (.w 0x0010))),
    (real16, [0x0F, 0x82, 0x10, 0x00], Instr.jb (.near (.w 0x0010))),
    (real16, [0x0F, 0x83, 0x10, 0x00], Instr.jnb (.near (.w 0x0010))),
    (real16, [0x0F, 0x84, 0x10, 0x00], Instr.jz (.near (.w 0x0010))),
    (real16, [0x0F, 0x85, 0x10, 0x00], Instr.jnz (.near (.w 0x0010))),
    (real16, [0x0F, 0x86, 0x10, 0x00], Instr.jbe (.near (.w 0x0010))),
    (real16, [0x0F, 0x87, 0x10, 0x00], Instr.jnbe (.near (.w 0x0010))),
    (real16, [0x0F, 0x88, 0x10, 0x00], Instr.js (.near (.w 0x0010))),
    (real16, [0x0F, 0x89, 0x10, 0x00], Instr.jns (.near (.w 0x0010))),
    (real16, [0x0F, 0x8A, 0x10, 0x00], Instr.jp (.near (.w 0x0010))),
    (real16, [0x0F, 0x8B, 0x10, 0x00], Instr.jnp (.near (.w 0x0010))),
    (real16, [0x0F, 0x8C, 0x10, 0x00], Instr.jl (.near (.w 0x0010))),
    (real16, [0x0F, 0x8D, 0x10, 0x00], Instr.jnl (.near (.w 0x0010))),
    (real16, [0x0F, 0x8E, 0x10, 0x00], Instr.jle (.near (.w 0x0010))),
    (real16, [0x0F, 0x8F, 0x10, 0x00], Instr.jnle (.near (.w 0x0010)))],
    decode c.1 c.2.1 = .ok (c.2.2, []) := by decide +kernel

/-- Words written out from the encoding tables (30_encoding R201; V8.1 to V8.7). -/
theorem test_decode_transfers : ∀ c ∈ [
    (real16, ([0xEB, 0x80] : List Byte), Instr.jmp (.short 0x80)),
    (real16, [0xE9, 0xFD, 0xFF], Instr.jmp (.near (.w 0xFFFD))),
    (real16, [0xFF, 0xE0], Instr.jmpRm (.reg .n0)),
    (real16, [0xEA, 0x00, 0x01, 0x00, 0x20], Instr.jmpFar ⟨.w 0x0100, 0x2000⟩),
    (real16, [0xFF, 0x2E, 0x00, 0x20], Instr.jmpFarMem (.abs16 0x2000)),
    (real16, [0xE8, 0x10, 0x00], Instr.call (.w 0x0010)),
    (real16, [0xFF, 0xD0], Instr.callRm (.reg .n0)),
    (flat32, [0x9A, 0x00, 0x02, 0x00, 0x00, 0x00, 0x30], Instr.callFar ⟨.d 0x0200, 0x3000⟩),
    (real16, [0xFF, 0x1E, 0x00, 0x20], Instr.callFarMem (.abs16 0x2000)),
    (real16, [0xC3], Instr.ret),
    (real16, [0xC2, 0x04, 0x00], Instr.retImm 0x0004),
    (real16, [0xCB], Instr.retf),
    (real16, [0xCA, 0x04, 0x00], Instr.retfImm 0x0004),
    (real16, [0xCF], Instr.iret),
    (flat32, [0xCF], Instr.iretd),
    (real16, [0xE2, 0xFE], Instr.loop 0xFE),
    (real16, [0xE1, 0xFE], Instr.loope 0xFE),
    (real16, [0xE0, 0xFE], Instr.loopne 0xFE),
    (real16, [0xE3, 0x10], Instr.jcxz 0x10)],
    decode c.1 c.2.1 = .ok (c.2.2, []) := by decide +kernel

/-- Words written out from the encoding tables (30_encoding R201; V8.7, V9.2). -/
theorem test_decode_traps_and_ports : ∀ c ∈ [
    (real16, ([0xCD, 0x21] : List Byte), Instr.int 0x21),
    (real16, [0xCC], Instr.int3),
    (real16, [0xCE], Instr.into),
    (real16, [0x62, 0x06, 0x00, 0x20], Instr.bound .n0 (.abs16 0x2000)),
    (real16, [0xE4, 0x60], Instr.inp .b (.imm 0x60)),
    (real16, [0xED], Instr.inp .v .dx),
    (real16, [0xE6, 0x80], Instr.outp .b (.imm 0x80)),
    (real16, [0xEF], Instr.outp .v .dx)],
    decode c.1 c.2.1 = .ok (c.2.2, []) := by decide +kernel

/-- Words written out from the encoding tables (30_encoding R201; 44_string_io R540). -/
theorem test_decode_strings : ∀ c ∈ [
    (real16, ([0xA4] : List Byte), Instr.movsb),
    (real16, [0xA5], Instr.movsw),
    (flat32, [0xA5], Instr.movsd),
    (real16, [0xA6], Instr.cmpsb),
    (real16, [0xA7], Instr.cmpsw),
    (flat32, [0xA7], Instr.cmpsd),
    (real16, [0xAA], Instr.stosb),
    (real16, [0xAB], Instr.stosw),
    (flat32, [0xAB], Instr.stosd),
    (real16, [0xAC], Instr.lodsb),
    (real16, [0xAD], Instr.lodsw),
    (flat32, [0xAD], Instr.lodsd),
    (real16, [0xAE], Instr.scasb),
    (real16, [0xAF], Instr.scasw),
    (flat32, [0xAF], Instr.scasd),
    (real16, [0x6C], Instr.insb),
    (real16, [0x6D], Instr.insw),
    (flat32, [0x6D], Instr.insd),
    (real16, [0x6E], Instr.outsb),
    (real16, [0x6F], Instr.outsw),
    (flat32, [0x6F], Instr.outsd)],
    decode c.1 c.2.1 = .ok (c.2.2, []) := by decide +kernel

/-- Words written out from the encoding tables (30_encoding R201, R202, R204; V10.1 to V10.6). -/
theorem test_decode_system : ∀ c ∈ [
    (real16, ([0x63, 0xC3] : List Byte), Instr.arpl (.reg .n3) .n0),
    (real16, [0x0F, 0x00, 0xC0], Instr.sldt (.reg .n0)),
    (real16, [0x0F, 0x00, 0xC8], Instr.str (.reg .n0)),
    (real16, [0x0F, 0x00, 0xD0], Instr.lldt (.reg .n0)),
    (real16, [0x0F, 0x00, 0xD8], Instr.ltr (.reg .n0)),
    (real16, [0x0F, 0x01, 0x06, 0x00, 0x09], Instr.sgdt (.abs16 0x0900)),
    (real16, [0x0F, 0x01, 0x0E, 0x00, 0x09], Instr.sidt (.abs16 0x0900)),
    (real16, [0x0F, 0x01, 0x16, 0x00, 0x09], Instr.lgdt (.abs16 0x0900)),
    (real16, [0x0F, 0x01, 0x1E, 0x08, 0x09], Instr.lidt (.abs16 0x0908)),
    (real16, [0x0F, 0x01, 0xE0], Instr.smsw (.reg .n0)),
    (real16, [0x0F, 0x01, 0xF0], Instr.lmsw (.reg .n0)),
    (real16, [0x0F, 0x06], Instr.clts),
    (real16, [0x0F, 0x32], Instr.rdmsr),
    (real16, [0x0F, 0x30], Instr.wrmsr)],
    decode c.1 c.2.1 = .ok (c.2.2, []) := by decide +kernel

/-- Words written out from the encoding tables (95_test_vectors V4.5, V10.6). -/
theorem test_decode_illegal : ∀ c ∈ [
    (real16, ([0xD6] : List Byte), Instr.ud .opD6),
    (real16, [0xF1], Instr.ud .opF1),
    (real16, [0xD9, 0xE8], Instr.ud (.esc .n1 .n5 (.reg .n0))),
    (real16, [0x0F, 0x0B], Instr.ud (.two 0x0B)),
    (real16, [0x0F, 0x02, 0xC3], Instr.ud (.slot .lar .n0 (.reg .n3))),
    (real16, [0x0F, 0x03, 0xC3], Instr.ud (.slot .lsl .n0 (.reg .n3))),
    (real16, [0x8D, 0xC0], Instr.ud (.slot .lea .n0 (.reg .n0))),
    (real16, [0xC4, 0xC0], Instr.ud (.slot .les .n0 (.reg .n0))),
    (real16, [0x62, 0xC0], Instr.ud (.slot .bound .n0 (.reg .n0))),
    (real16, [0xFF, 0xD8], Instr.ud (.slot .grp5 .n3 (.reg .n0))),
    (real16, [0xFF, 0xFF], Instr.ud (.slot .grp5 .n7 (.reg .n7))),
    (real16, [0xFE, 0xD0], Instr.ud (.slot .grp4 .n2 (.reg .n0))),
    (real16, [0x8F, 0xC8], Instr.ud (.slot .popRm .n1 (.reg .n0))),
    (real16, [0xC6, 0xC8], Instr.ud (.slot .movEbIb .n1 (.reg .n0))),
    (real16, [0x0F, 0xBA, 0xC0], Instr.ud (.slot .grp8 .n0 (.reg .n0))),
    (real16, [0x0F, 0xBA, 0x58, 0x05], Instr.ud (.slot .grp8 .n3 (.mem (.m16 .n0 (.d8 0x05))))),
    (real16, [0x0F, 0x00, 0xE0], Instr.ud (.slot .grp6 .n4 (.reg .n0))),
    (real16, [0x0F, 0x01, 0xD0], Instr.ud (.slot .grp7 .n2 (.reg .n0))),
    (real16, [0x8C, 0xF0], Instr.ud (.slot .movFromSeg .n6 (.reg .n0))),
    (real16, [0x8E, 0xC8], Instr.ud (.slot .movToSeg .n1 (.reg .n0)))],
    decode c.1 c.2.1 = .ok (c.2.2, []) := by decide +kernel
/-! ## Primitives (95_test_vectors sections 2, 6 and 7) -/

/-- V2.1. -/
theorem test_add : [
    gives (opAdd 8 0x7F 0x01 (carry false) 0) 0x80 [0, 0, 1, 0, 1, 1],
    gives (opAdd 8 0xFF 0x01 (carry false) 0) 0x00 [1, 1, 1, 1, 0, 0],
    gives (opAdd 8 0x80 0x80 (carry false) 0) 0x00 [1, 1, 0, 1, 0, 1],
    gives (opAdd 16 0x7FFF 0x0001 (carry false) 0) 0x8000 [0, 1, 1, 0, 1, 1],
    gives (opAdd 16 0xFFFF 0xFFFF (carry false) 0) 0xFFFE [1, 0, 1, 0, 1, 0],
    gives (opAdd 32 0x80000000 0x80000000 (carry false) 0) 0x00000000 [1, 1, 0, 1, 0, 1],
    gives (opAdc 8 0xFF 0x00 (carry true) 0) 0x00 [1, 1, 1, 1, 0, 0],
    gives (opAdc 8 0xFF 0xFF (carry true) 0) 0xFF [1, 1, 1, 0, 1, 0],
    gives (opAdc 16 0xFFFF 0x0000 (carry true) 0) 0x0000 [1, 1, 1, 1, 0, 0]].all id = true := by decide +kernel

/-- V2.2. -/
theorem test_sub : [
    gives (opSub 8 0x00 0x01 (carry false) 0) 0xFF [1, 1, 1, 0, 1, 0],
    gives (opSub 8 0x80 0x01 (carry false) 0) 0x7F [0, 0, 1, 0, 0, 1],
    gives (opSub 8 0x7F 0xFF (carry false) 0) 0x80 [1, 0, 0, 0, 1, 1],
    gives (opSub 8 0x43 0x58 (carry false) 0) 0xEB [1, 1, 1, 0, 1, 0],
    gives (opSub 16 0x8000 0x0001 (carry false) 0) 0x7FFF [0, 1, 1, 0, 0, 1],
    gives (opSub 32 0x7FFFFFFF 0xFFFFFFFF (carry false) 0) 0x80000000 [1, 1, 0, 0, 1, 1],
    gives (opSbb 8 0x00 0xFF (carry true) 0) 0x00 [1, 1, 1, 1, 0, 0],
    gives (opSbb 8 0x80 0x00 (carry true) 0) 0x7F [0, 0, 1, 0, 0, 1],
    gives (opSbb 16 0x0000 0xFFFF (carry true) 0) 0x0000 [1, 1, 1, 1, 0, 0]].all id = true := by decide +kernel

/-- V2.3, V2.4, V2.5. -/
theorem test_unary : [
    gives (opInc 8 0xFF (carry true)) 0x00 [1, 1, 1, 1, 0, 0],
    gives (opInc 16 0x7FFF (carry false)) 0x8000 [0, 1, 1, 0, 1, 1],
    gives (opDec 8 0x00 (carry false)) 0xFF [0, 1, 1, 0, 1, 0],
    gives (opDec 32 0x80000000 (carry true)) 0x7FFFFFFF [1, 1, 1, 0, 0, 1],
    gives (opNeg 8 0x80 (carry false)) 0x80 [1, 0, 0, 0, 1, 1],
    gives (opNeg 8 0x00 (carry true)) 0x00 [0, 1, 0, 1, 0, 0],
    gives (opNeg 32 0x00000001 (carry false)) 0xFFFFFFFF [1, 1, 1, 0, 1, 0],
    gives (opNot 8 0x0F (carry true)) 0xF0 [1, 0, 0, 0, 0, 0],
    gives (opAnd 8 0xF0 0x0F (carry true) 0) 0x00 [0, 1, 2, 1, 0, 0],
    gives (opOr 8 0x01 0x80 (carry true) 0) 0x81 [0, 1, 2, 0, 1, 0],
    gives (opXor 16 0xFFFF 0x00FF (carry true) 0) 0xFF00 [0, 1, 2, 0, 1, 0]].all id = true := by decide +kernel

/-- V6.3. -/
theorem test_shifts : [
    gives (opShl 8 0x81 0 (carry true) 0) 0x81 [1, 0, 0, 0, 0, 0],
    gives (opShl 8 0x81 1 (carry false) 0) 0x02 [1, 0, 2, 0, 0, 1],
    gives (opShl 8 0x01 8 (carry false) 0) 0x00 [1, 1, 2, 1, 0, 2],
    gives (opShl 8 0xFF 9 (carry true) 0) 0x00 [0, 1, 2, 1, 0, 2],
    gives (opShl 32 0xDEADBEEF 4 (carry false) 0) 0xEADBEEF0 [1, 1, 2, 0, 1, 2],
    gives (opShr 8 0x81 1 (carry false) 0) 0x40 [1, 0, 2, 0, 0, 1],
    gives (opShr 8 0x80 8 (carry false) 0) 0x00 [1, 1, 2, 1, 0, 2],
    gives (opShr 16 0xFFFF 20 (carry true) 0) 0x0000 [0, 1, 2, 1, 0, 2],
    gives (opSar 8 0x86 2 (carry false) 0) 0xE1 [1, 1, 2, 0, 1, 2],
    gives (opSar 8 0x80 9 (carry false) 0) 0xFF [1, 1, 2, 0, 1, 2],
    gives (opSar 8 0x7F 1 (carry false) 0) 0x3F [1, 1, 2, 0, 0, 0],
    gives (opSar 16 0x4000 17 (carry true) 0) 0x0000 [0, 1, 2, 1, 0, 2]].all id = true := by decide +kernel

/-- V6.4. -/
theorem test_rotates : [
    gives (opRol 8 false 0x81 1 (carry false) 0) 0x03 [1, 0, 0, 0, 0, 1],
    gives (opRol 8 false 0x81 8 (carry false) 0) 0x81 [0, 0, 0, 0, 0, 0],
    gives (opRol 8 true 0x81 8 (carry false) 0) 0x81 [1, 0, 0, 0, 0, 0],
    gives (opRol 8 false 0x81 9 (carry false) 0) 0x03 [1, 0, 0, 0, 0, 1],
    gives (opRol 32 false 0x12345678 31 (carry true) 0) 0x091A2B3C [0, 0, 0, 0, 0, 2],
    gives (opRor 8 false 0x81 9 (carry false) 0) 0xC0 [1, 0, 0, 0, 0, 0],
    gives (opRor 8 true 0x80 24 (carry false) 0) 0x80 [1, 0, 0, 0, 0, 0],
    gives (opRor 16 true 0x1234 16 (carry true) 0) 0x1234 [0, 0, 0, 0, 0, 0],
    gives (opRor 16 false 0x0001 1 (carry false) 0) 0x8000 [1, 0, 0, 0, 0, 1]].all id = true := by decide +kernel

/-- V6.5. -/
theorem test_rotates_through_carry : [
    gives (opRcl 8 0x80 1 (carry false) 0) 0x00 [1, 0, 0, 0, 0, 1],
    gives (opRcl 8 0x81 4 (carry true) 0) 0x1C [0, 0, 0, 0, 0, 2],
    gives (opRcl 8 0x81 9 (carry true) 0) 0x81 [1, 0, 0, 0, 0, 0],
    gives (opRcl 16 0x0001 17 (carry false) 0) 0x0001 [0, 0, 0, 0, 0, 0],
    gives (opRcl 16 0x1234 18 (carry true) 0) 0x2469 [0, 0, 0, 0, 0, 0],
    gives (opRcl 32 0x00000001 31 (carry true) 0) 0xC0000000 [0, 0, 0, 0, 0, 2],
    gives (opRcr 8 0x01 1 (carry true) 0) 0x80 [1, 0, 0, 0, 0, 1],
    gives (opRcr 8 0x81 31 (carry true) 0) 0x38 [0, 0, 0, 0, 0, 2],
    gives (opRcr 16 0x1234 16 (carry true) 0) 0x2469 [0, 0, 0, 0, 0, 2],
    gives (opRcr 32 0x80000000 31 (carry false) 0) 0x00000001 [0, 0, 0, 0, 0, 2]].all id = true := by
  decide +kernel

/-- V6.6. -/
theorem test_double_shifts : [
    gives (opShld 16 0x1234 0xABCD 4 (carry false) 0) 0x234A [1, 0, 2, 0, 0, 2],
    gives (opShld 16 0x8000 0x8000 1 (carry false) 0) 0x0001 [1, 0, 2, 0, 0, 1],
    gives (opShld 16 0x1235 0xABCD 16 (carry false) 0) 0x0000 [1, 1, 2, 1, 0, 2],
    gives (opShld 32 0x12345678 0x9ABCDEF0 31 (carry true) 0) 0x4D5E6F78 [0, 1, 2, 0, 0, 2],
    gives (opShrd 16 0x1234 0xABCD 4 (carry true) 0) 0xD123 [0, 0, 2, 0, 1, 2],
    gives (opShrd 16 0x8000 0x0000 1 (carry true) 0) 0x4000 [0, 1, 2, 0, 0, 1],
    gives (opShrd 16 0x9234 0xABCD 17 (carry true) 0) 0x0000 [0, 1, 2, 1, 0, 2],
    gives (opShrd 32 0x12345678 0x9ABCDEF0 31 (carry true) 0) 0x3579BDE0 [0, 0, 2, 0, 0, 2]].all id = true := by
  decide +kernel

/-- V7.1 to V7.3. -/
theorem test_multiplies :
    opMul 8 0xFF 0xFF = (0xFE, 0x01, true) ∧ opMul 16 0x00FF 0x0100 = (0x0000, 0xFF00, false) ∧
    opMul 32 0xFFFFFFFF 0xFFFFFFFF = (0xFFFFFFFE, 0x00000001, true) ∧
    opImul 8 0xFF 0x02 = (0xFF, 0xFE, false) ∧ opImul 8 0x80 0xFF = (0x00, 0x80, true) ∧
    opImul 8 0x80 0x80 = (0x40, 0x00, true) ∧ opImul 16 0x8000 0x0002 = (0xFFFF, 0x0000, true) ∧
    opImul 32 0x80000000 0xFFFFFFFF = (0x00000000, 0x80000000, true) ∧
    opImul2 16 0x0005 0xFFFD = (0xFFF1, false) ∧ opImul2 16 0xC000 0x0002 = (0x8000, false) ∧
    opImul2 16 0xBFFF 0x0002 = (0x7FFE, true) ∧ opImul2 32 0xFFFFFFFF 0xFFFFFFFF = (0x00000001, false) := by
  decide +kernel

/-- V7.4, V7.5. -/
theorem test_divisions :
    opDiv 8 0x0FFF 0x10 = some (0xFF, 0x0F) ∧ opDiv 8 0x1000 0x10 = none ∧ opDiv 8 0x0001 0x00 = none ∧
    opDiv 16 0x12345678 0x5678 = some (0x35E5, 0x2520) ∧
    opDiv 32 0xFFFFFFFEFFFFFFFF 0xFFFFFFFF = some (0xFFFFFFFF, 0xFFFFFFFE) ∧
    opIdiv 8 (-7) 0x02 = some (0xFD, 0xFF) ∧ opIdiv 8 7 0xFE = some (0xFD, 0x01) ∧
    opIdiv 8 128 0xFF = some (0x80, 0x00) ∧ opIdiv 8 128 0x01 = none ∧ opIdiv 8 (-128) 0x01 = some (0x80, 0x00) ∧
    opIdiv 8 (-129) 0x01 = none ∧ opIdiv 16 (-100) 0x0007 = some (0xFFF2, 0xFFFE) := by
  decide +kernel

/-! ## One instruction (95_test_vectors sections 5 to 11) -/

/-- V5.1, V5.2, V5.7: MOV to a part of a register, MOVZX, MOVSX, CBW, CWD, CDQ. -/
theorem test_mov_parts :
    ends (exec (.mov (.rIb .n4 0xFF)) (regs 0x12345678 0 0 0 0 0 0 0)) (fun t => t.regs.r0 == 0x1234FF78) = true ∧
    ends (exec (.mov (.rIz .n0 (.w 0))) (regs 0x12345678 0 0 0 0 0 0 0)) (fun t => t.regs.r0 == 0x12340000) = true ∧
    ends (exec (.mov (.rmR .b (.reg .n0) .n4)) (regs 0x12345678 0 0 0 0 0 0 0))
      (fun t => t.regs.r0 == 0x12345656) = true ∧
    ends (exec (.movzx .b .n0 (.reg .n3)) (flat (regs 0x12345678 0 0 0x80 0 0 0 0)))
      (fun t => t.regs.r0 == 0x00000080) = true ∧
    ends (exec (.movsx .b .n0 (.reg .n3)) (regs 0x12345678 0 0 0x80 0 0 0 0))
      (fun t => t.regs.r0 == 0x1234FF80) = true ∧
    ends (exec (.movsx .v .n0 (.reg .n3)) (flat (regs 0 0 0 0x8000 0 0 0 0)))
      (fun t => t.regs.r0 == 0xFFFF8000) = true := by decide +kernel

theorem test_conversions :
    ends (exec .cbw (regs 0x12345680 0 0 0 0 0 0 0)) (fun t => t.regs.r0 == 0x1234FF80) = true ∧
    ends (exec .cwde (flat (regs 0x12348000 0 0 0 0 0 0 0))) (fun t => t.regs.r0 == 0xFFFF8000) = true ∧
    ends (exec .cwd (regs 0x8000 0 0x12340000 0 0 0 0 0)) (fun t => t.regs.r2 == 0x1234FFFF) = true ∧
    ends (exec .cdq (flat (regs 0x7FFFFFFF 0 0x12340000 0 0 0 0 0))) (fun t => t.regs.r2 == 0) = true := by
  decide +kernel

/-- V5.3: a push at SP 0 wraps in 16 bits; PUSH SP stores the old value; POP SP wins over the release. -/
theorem test_push :
    ends (exec (.push (.reg .n0)) (holding [(0xFFFE, [0, 0])] (regs 0xBEEF 0 0 0 0x12340000 0 0 0)))
      (fun t => t.regs.r4 == 0x1234FFFE && t.mem.val .b16 0xFFFE == 0xBEEF) = true ∧
    ends (exec (.push (.reg .n4)) (holding [(0xFE, [0, 0])] (regs 0 0 0 0 0x100 0 0 0)))
      (fun t => t.regs.r4 == 0xFE && t.mem.val .b16 0xFE == 0x0100) = true ∧
    ends (exec (.push (.ib 0xFF)) (holding [(0xFE, [0, 0])] (regs 0 0 0 0 0x100 0 0 0)))
      (fun t => t.mem.val .b16 0xFE == 0xFFFF) = true := by decide +kernel

theorem test_pop :
    ends (exec (.pop (.reg .n4)) (holding [(0xFE, [0x34, 0x12])] (regs 0 0 0 0 0xFE 0 0 0)))
      (fun t => t.regs.r4 == 0x1234) = true ∧
    ends (exec (.popSeg .es) (holding [(0xFE, [0x34, 0x12])] (regs 0 0 0 0 0xFE 0 0 0)))
      (fun t => t.segs.es == ⟨0x1234, 0x12340, 0xFFFF, 0x093⟩ && t.regs.r4 == 0x100) = true := by decide +kernel

/-- V5.4: PUSHA, then what POPA makes of the same words. -/
theorem test_pusha :
    ends (exec .pusha (holding [(0xF0, List.replicate 16 0)] (regs 1 2 3 4 0x100 5 6 7))) (fun t =>
      t.regs.r4 == 0xF0 && t.mem.val .b32 0xF0 == 0x00060007 && t.mem.val .b32 0xF4 == 0x01000005 &&
      t.mem.val .b32 0xF8 == 0x00030004 && t.mem.val .b32 0xFC == 0x00010002) = true := by decide +kernel

theorem test_popa :
    ends (exec .popa (holding [(0xF0, [7, 0, 6, 0, 5, 0, 0, 9, 4, 0, 3, 0, 2, 0, 1, 0])] (regs 0 0 0 0 0xF0 0 0 0)))
      (fun t => t.regs == ⟨1, 2, 3, 4, 0x100, 5, 6, 7⟩) = true := by decide +kernel

/-- V5.5: ENTER 8,2, LEAVE, ENTER 16,0. -/
theorem test_enter :
    ends (exec (.enter 8 2) (holding [(0xFA, List.replicate 6 0), (0x1FE, [0xAA, 0xAA])]
        (regs 0 0 0 0 0x100 0x200 0 0))) (fun t =>
      t.regs.r5 == 0xFE && t.regs.r4 == 0xF2 && t.mem.val .b16 0xFE == 0x0200 && t.mem.val .b16 0xFC == 0xAAAA &&
      t.mem.val .b16 0xFA == 0x00FE) = true ∧
    ends (exec (.enter 16 0) (holding [(0xFE, [0, 0])] (regs 0 0 0 0 0x100 0x1234 0 0)))
      (fun t => t.regs.r5 == 0xFE && t.regs.r4 == 0xEE && t.mem.val .b16 0xFE == 0x1234) = true := by decide +kernel

theorem test_leave :
    ends (exec .leave (holding [(0xFE, [0x00, 0x02])] (regs 0 0 0 0 0xF2 0xFE 0 0)))
      (fun t => t.regs.r5 == 0x200 && t.regs.r4 == 0x100) = true := by decide +kernel

/-- V5.6: XCHG, XLAT with a wrapping sum, LES. -/
theorem test_xchg :
    ends (exec (.xchg (.rmR .v (.reg .n1) .n3)) (regs 0 1 0 2 0 0 0 0))
      (fun t => t.regs.r1 == 2 && t.regs.r3 == 1) = true ∧
    ends (exec (.xchg (.rmR .v (.mem (.m16 .n7 .none)) .n0)) (holding [(0x200, [0x22, 0x22])]
        (regs 0x1111 0 0 0x200 0 0 0 0)))
      (fun t => t.regs.r0 == 0x2222 && t.mem.val .b16 0x200 == 0x1111) = true := by decide +kernel

theorem test_xlat_and_les :
    ends (exec .xlat (holding [(0xFE, [0x9C])] (regs 0xFF 0 0 0xFFFF 0 0 0 0)))
      (fun t => t.regs.r0 == 0x9C) = true ∧
    ends (exec (.les .n3 (.abs16 0x10)) (holding [(0x10, [0x00, 0x01, 0x00, 0x20])] State.reset))
      (fun t => t.regs.r3 == 0x100 && t.segs.es.sel == 0x2000 && t.segs.es.base == 0x20000) = true := by
  decide +kernel

/-- V5.8: LAHF, SAHF and the popped flags, by mode and privilege. -/
theorem test_flag_transfers :
    ends (exec .lahf (eflags 0x0AD7 State.reset)) (fun t => t.regs.r0 == 0xD700) = true ∧
    ends (exec .sahf (regs 0xFF00 0 0 0 0 0 0 0)) (fun t => t.flags.toWord == 0xD7) = true ∧
    ends (exec .pushf (holding [(0xFE, [0, 0])] (eflags 0x0AD7 (regs 0 0 0 0 0x100 0 0 0))))
      (fun t => t.mem.val .b16 0xFE == 0x0AD7) = true := by decide +kernel

theorem test_popf :
    ends (exec .popf (holding [(0xFE, [0xFF, 0xFF])] (regs 0 0 0 0 0xFE 0 0 0)))
      (fun t => t.flags.toWord == 0x7FD7) = true ∧
    ends (exec .popf (level 3 0 (holding [(0xFE, [0xFF, 0xFF])] (regs 0 0 0 0 0xFE 0 0 0))))
      (fun t => t.flags.toWord == 0x4DD7) = true ∧
    ends (exec .popf (level 3 3 (holding [(0xFE, [0xFF, 0xFF])] (regs 0 0 0 0 0xFE 0 0 0))))
      (fun t => t.flags.toWord == 0x7FD7) = true := by decide +kernel

/-- V5.9, V4.1: SETZ, LEA with a wrapping sum. -/
theorem test_setz_and_lea :
    ends (exec (.setz (.reg .n0)) (eflags 0x40 (regs 0xFF 0 0 0 0 0 0 0))) (fun t => t.regs.r0 == 1) = true ∧
    ends (exec (.setz (.reg .n0)) (regs 0xFF 0 0 0 0 0 0 0)) (fun t => t.regs.r0 == 0) = true ∧
    ends (exec (.lea .n0 (.m16 .n0 (.d8 0xFE))) (regs 0 0 0 0x1000 0 0 1 0)) (fun t => t.regs.r0 == 0x0FFF) = true ∧
    ends (exec (.lea .n0 (.m16 .n0 .none)) (regs 0 0 0 0xFFFF 0 0 2 0)) (fun t => t.regs.r0 == 1) = true := by
  decide +kernel

/-- V5.10: a refused operand read is the sentinel, not an exception. -/
theorem test_refused_operand :
    ends (exec (.inc (.e .b (.mem (.abs16 0x2000)))) (State.reset.setMem (fill 0x02 State.reset.mem 0x2000 [0x55])))
      (fun t => t.mem.dataAt 0x2000 == 0x00 && t.mem.attrAt 0x2000 == 0xAA && t.mem.invalid && t.flags.zf &&
        t.flags.af && t.intr.pending == none) = true := by decide +kernel

/-- V6.1, V6.2. -/
theorem test_group1_and_same_register :
    ends (exec (.add (.evIb (.reg .n0) 0xFF)) (regs 1 0 0 0 0 0 0 0))
      (fun t => t.regs.r0 == 0 && t.flags.toWord == 0x57) = true ∧
    ends (exec (.cmp (.accIb 0x10)) (regs 0x0F 0 0 0 0 0 0 0))
      (fun t => t.regs.r0 == 0x0F && t.flags.cf && !t.flags.zf) = true ∧
    ends (exec (.add (.rmR .v (.reg .n0) .n0)) (regs 0x8000 0 0 0 0 0 0 0))
      (fun t => t.regs.r0 == 0 && t.flags.toWord == 0x0847) = true ∧
    ends (exec (.sub (.rmR .v (.reg .n0) .n0)) (regs 0x1234 0 0 0 0 0 0 0))
      (fun t => t.regs.r0 == 0 && t.flags.toWord == 0x46) = true ∧
    ends (exec (.shld (.reg .n0) .n0 (.imm 4)) (regs 0x1234 0 0 0 0 0 0 0))
      (fun t => t.regs.r0 == 0x2341 && t.flags.cf) = true ∧
    ends (exec (.shl .v (.reg .n0) (.imm 0x20)) (flat (regs 0x12345678 0 0 0 0 0 0 0)))
      (fun t => t.regs.r0 == 0x12345678) = true := by decide +kernel

theorem test_multiply_and_divide :
    ends (exec (.imul2 .n0 (.reg .n0)) (regs 0x100 0 0 0 0 0 0 0))
      (fun t => t.regs.r0 == 0 && t.flags.cf && t.flags.ovf) = true ∧
    ends (exec (.imul3 .n0 (.reg .n3) (.ib 0xFD)) (regs 0 0 0 5 0 0 0 0))
      (fun t => t.regs.r0 == 0xFFF1 && !t.flags.cf) = true ∧
    ends (exec (.mul .b (.reg .n3)) (regs 0xFF 0 0 0xFF 0 0 0 0)) (fun t => t.regs.r0 == 0xFE01) = true ∧
    ends (exec (.div .v (.reg .n0)) (regs 5 0 0 0 0 0 0 0))
      (fun t => t.regs.r0 == 1 && t.regs.r2 == 0) = true ∧
    ends (exec (.idiv .b (.reg .n3)) (regs 0xFFF9 0 0 2 0 0 0 0)) (fun t => t.regs.r0 == 0xFFFD) = true ∧
    pends (exec (.div .b (.reg .n3)) (regs 1 0 0 0 0 0 0 0)) ⟨0, .fault, false, true, 0⟩ = true := by decide +kernel

/-- V7.6, V7.7. -/
theorem test_daa_das :
    ends (exec .daa (regs 0x9B 0 0 0 0 0 0 0)) (fun t => t.regs.r0 == 0x01 && t.flags.cf && t.flags.af) = true ∧
    ends (exec .daa (eflags 0x11 (regs 0x00 0 0 0 0 0 0 0))) (fun t => t.regs.r0 == 0x66 && t.flags.cf) = true ∧
    ends (exec .daa (regs 0xA0 0 0 0 0 0 0 0)) (fun t => t.regs.r0 == 0x00 && t.flags.cf && !t.flags.af) = true ∧
    ends (exec .das (eflags 0x10 (regs 0x05 0 0 0 0 0 0 0)))
      (fun t => t.regs.r0 == 0xFF && t.flags.cf && t.flags.af && t.flags.sf) = true ∧
    ends (exec .das (regs 0xA0 0 0 0 0 0 0 0)) (fun t => t.regs.r0 == 0x40 && t.flags.cf && !t.flags.af) = true := by
  decide +kernel

/-- V7.8, V7.9. -/
theorem test_ascii_adjust :
    ends (exec .aaa (regs 0xFF0A 0 0 0 0 0 0 0)) (fun t => t.regs.r0 == 0x0000 && t.flags.cf && t.flags.af) = true ∧
    ends (exec .aaa (regs 0x00FF 0 0 0 0 0 0 0)) (fun t => t.regs.r0 == 0x0205) = true ∧
    ends (exec .aas (eflags 0x10 (regs 0 0 0 0 0 0 0 0))) (fun t => t.regs.r0 == 0xFE0A && t.flags.cf) = true ∧
    ends (exec (.aam 0x0A) (regs 0xFF 0 0 0 0 0 0 0)) (fun t => t.regs.r0 == 0x1905 && t.flags.pf) = true ∧
    ends (exec (.aad 0x0A) (regs 0xFFFF 0 0 0 0 0 0 0)) (fun t => t.regs.r0 == 0x00F5 && t.flags.sf) = true ∧
    pends (exec (.aam 0) (regs 0xFF 0 0 0 0 0 0 0)) ⟨0, .fault, false, true, 0⟩ = true := by decide +kernel

/-- V7.10. -/
theorem test_bit_tests :
    ends (exec (.bt (.reg .n0) (.imm 0x17)) (regs 0x80 0 0 0 0 0 0 0)) (fun t => t.flags.cf) = true ∧
    ends (exec (.bts (.reg .n0) (.reg .n3)) (regs 0 0 0 3 0 0 0 0)) (fun t => t.regs.r0 == 8 && !t.flags.cf) = true ∧
    ends (exec (.btr (.reg .n0) (.imm 0)) (regs 1 0 0 0 0 0 0 0)) (fun t => t.regs.r0 == 0 && t.flags.cf) = true ∧
    ends (exec (.btc (.reg .n0) (.imm 0x0F)) (regs 0 0 0 0 0 0 0 0)) (fun t => t.regs.r0 == 0x8000) = true ∧
    ends (exec (.bts (.mem (.m16 .n7 .none)) (.reg .n0)) (holding [(0xFE, [0, 0])] (regs 0xFFFF 0 0 0x100 0 0 0 0)))
      (fun t => t.mem.val .b16 0xFE == 0x8000) = true := by decide +kernel

theorem test_bit_scans :
    ends (exec (.bsf .n0 (.reg .n3)) (regs 0 0 0 0x48 0 0 0 0)) (fun t => t.regs.r0 == 3 && !t.flags.zf) = true ∧
    ends (exec (.bsr .n0 (.reg .n3)) (regs 0 0 0 0x48 0 0 0 0)) (fun t => t.regs.r0 == 6 && !t.flags.zf) = true ∧
    ends (exec (.bsr .n0 (.reg .n3)) (regs 0 0 0 0x8000 0 0 0 0)) (fun t => t.regs.r0 == 0xF) = true ∧
    ends (exec (.bsf .n0 (.reg .n3)) (regs 0 0 0 0 0 0 0 0)) (fun t => t.flags.zf) = true := by decide +kernel

/-- V7.11, V8.2. -/
theorem test_flag_instructions :
    ends (exec .cmc (eflags 0x03 State.reset)) (fun t => t.flags.toWord == 0x02) = true ∧
    ends (exec .std State.reset) (fun t => t.flags.toWord == 0x402) = true ∧
    ends (exec .stc State.reset) (fun t => t.flags.toWord == 0x03) = true := by decide +kernel

theorem test_conditions :
    (∀ c ∈ [Cond.nbe, .l, .le, .o], condHolds (opSub 8 0x80 0x01 (carry false) 0).2 c = true) ∧
    (∀ c ∈ [Cond.b, .nl, .nle, .s], condHolds (opSub 8 0x80 0x01 (carry false) 0).2 c = false) ∧
    (∀ c ∈ [Cond.b, .be, .l, .le, .s, .nz], condHolds (opSub 8 0x01 0x02 (carry false) 0).2 c = true) ∧
    (∀ c ∈ [Cond.z, .be, .le, .nl, .nb, .p], condHolds (opSub 8 0x05 0x05 (carry false) 0).2 c = true) ∧
    (∀ c ∈ [Cond.nbe, .nle, .l, .b], condHolds (opSub 8 0x05 0x05 (carry false) 0).2 c = false) := by decide +kernel

/-- V8.1; EIP is already past the instruction. -/
theorem test_jumps :
    ends (exec (.jz (.short 0x05)) (eflags 0x40 (State.reset.setEip 0x102))) (fun t => t.eip == 0x107) = true ∧
    ends (exec (.jz (.short 0x05)) (State.reset.setEip 0x102)) (fun t => t.eip == 0x102) = true ∧
    ends (exec (.jmp (.short 0xF0)) (State.reset.setEip 0x07)) (fun t => t.eip == 0xFFF7) = true ∧
    ends (exec (.jmp (.short 0xF0)) (flat (State.reset.setEip 0x07))) (fun t => t.eip == 0xFFFFFFF7) = true ∧
    ends (exec (.jmp (.near (.w 0xFFFD))) (State.reset.setEip 0x103)) (fun t => t.eip == 0x100) = true := by
  decide +kernel

/-- V8.3, V8.4. -/
theorem test_calls_and_returns :
    ends (exec (.call (.w 0x10)) (holding [(0x1FE, [0, 0])] ((regs 0 0 0 0 0x200 0 0 0).setEip 0x103)))
      (fun t => t.eip == 0x113 && t.regs.r4 == 0x1FE && t.mem.val .b16 0x1FE == 0x103) = true ∧
    ends (exec (.retImm 4) (holding [(0x1FE, [0x03, 0x01])] (regs 0 0 0 0 0x1FE 0 0 0)))
      (fun t => t.eip == 0x103 && t.regs.r4 == 0x204) = true ∧
    ends (exec (.callRm (.reg .n0)) (holding [(0x1FE, [0, 0])] ((regs 0x300 0 0 0 0x200 0 0 0).setEip 0x102)))
      (fun t => t.eip == 0x300 && t.mem.val .b16 0x1FE == 0x102) = true := by decide +kernel

theorem test_far_transfers :
    ends (exec (.jmpFar ⟨.w 0x0100, 0x2000⟩) State.reset)
      (fun t => t.eip == 0x100 && t.segs.cs == ⟨0x2000, 0x20000, 0xFFFF, 0x09B⟩) = true ∧
    ends (exec (.callFar ⟨.w 0x0200, 0x3000⟩) (holding [(0xFC, [0, 0, 0, 0])] (((regs 0 0 0 0 0x100 0 0 0).setEip
        0x15).setSegs { State.reset.segs with cs := ⟨0x1000, 0x10000, 0xFFFF, 0x09B⟩ })))
      (fun t => t.eip == 0x200 && t.segs.cs.base == 0x30000 && t.regs.r4 == 0xFC &&
        t.mem.val .b32 0xFC == 0x10000015) = true ∧
    ends (exec (.retfImm 4) (holding [(0xFC, [0x15, 0x00, 0x00, 0x10])] (regs 0 0 0 0 0xFC 0 0 0)))
      (fun t => t.eip == 0x15 && t.segs.cs.base == 0x10000 && t.regs.r4 == 0x104) = true ∧
    ends (exec .iret (holding [(0xFA, [0x03, 0x01, 0x00, 0x10, 0x02, 0x02])] (regs 0 0 0 0 0xFA 0 0 0)))
      (fun t => t.eip == 0x103 && t.segs.cs.sel == 0x1000 && t.flags.toWord == 0x202 && t.regs.r4 == 0x100) = true ∧
    pends (exec (.jmpFar ⟨.w 0, 0x0018⟩) ((level 0 0 State.reset).setSys
        { (level 0 0 State.reset).sys with gdtr := ⟨0x800, 0x17⟩ })) ⟨13, .fault, true, true, 0x18⟩ = true := by
  decide +kernel

/-- V8.6. -/
theorem test_loops :
    ends (exec (.loop 0xFE) ((regs 0 0 0 0 0 0 0 0).setEip 2)) (fun t => t.regs.r1 == 0xFFFF && t.eip == 0) = true ∧
    ends (exec (.loop 0xFE) ((regs 0 1 0 0 0 0 0 0).setEip 2)) (fun t => t.regs.r1 == 0 && t.eip == 2) = true ∧
    ends (exec (.loope 0xFE) ((regs 0 5 0 0 0 0 0 0).setEip 2)) (fun t => t.regs.r1 == 4 && t.eip == 2) = true ∧
    ends (exec (.loopne 0xFE) ((regs 0 5 0 0 0 0 0 0).setEip 2)) (fun t => t.regs.r1 == 4 && t.eip == 0) = true ∧
    ends (exec (.jcxz 0x10) ((regs 0 0 0 0 0 0 0 0).setEip 0x102)) (fun t => t.eip == 0x112) = true ∧
    ends (exec (.jcxz 0x10) (((regs 0 0x10000 0 0 0 0 0 0).setEip 0x103).setPfx { Pfx.clear with adsz := true }))
      (fun t => t.eip == 0x103) = true := by decide +kernel

/-- V8.7, V1.9, V9.2. -/
theorem test_traps :
    pends (exec (.int 0x21) State.reset) ⟨0x21, .software, false, false, 0⟩ = true ∧
    ends (exec .into State.reset) (fun t => t.intr.pending == none) = true ∧
    pends (exec .into (eflags 0x800 State.reset)) ⟨4, .software, false, false, 0⟩ = true ∧
    pends (exec (.bound .n0 (.abs16 0x2000)) (holding [(0x2000, [0, 0, 4, 0])] (regs 5 0 0 0 0 0 0 0)))
      ⟨5, .fault, false, true, 0⟩ = true ∧
    ends (exec (.bound .n0 (.abs16 0x2000)) (holding [(0x2000, [0, 0, 4, 0])] (regs 4 0 0 0 0 0 0 0)))
      (fun t => t.intr.pending == none) = true ∧
    pends (exec (.ud .opD6) State.reset) ⟨6, .fault, false, true, 0⟩ = true := by decide +kernel

/-- V9.1. -/
theorem test_repeated_strings :
    ends (exec .movsb (holding [(0x100, [1, 2, 3]), (0x200, [0, 0, 0])]
        ((regs 0 3 0 0 0 0 0x100 0x200).setPfx { Pfx.clear with rep := some .rep }))) (fun t =>
      t.regs == ⟨0, 0, 0, 0, 0, 0, 0x103, 0x203⟩ && t.mem.val .b16 0x200 == 0x0201 && t.mem.val .b8 0x202 == 3)
      = true ∧
    ends (exec .cmpsb (holding [(0x100, [0x41, 0x42, 0x43, 0x44]), (0x200, [0x41, 0x42, 0x58, 0x44])]
        ((regs 0 4 0 0 0 0 0x100 0x200).setPfx { Pfx.clear with rep := some .rep }))) (fun t =>
      t.regs.r1 == 1 && t.regs.r6 == 0x103 && t.regs.r7 == 0x203 && t.flags.toWord == 0x97) = true ∧
    ends (exec .scasb (holding [(0x200, [0x41, 0x42, 0x43, 0x44, 0x00])]
        ((regs 0 0xFFFF 0 0 0 0 0 0x200).setPfx { Pfx.clear with rep := some .repne }))) (fun t =>
      t.regs.r1 == 0xFFFA && t.regs.r7 == 0x205 && t.flags.toWord == 0x46) = true := by decide +kernel

theorem test_string_elements :
    ends (exec .movsw (holding [(0x100, [0x34, 0x12]), (0x200, [0, 0])] (eflags 0x400 (regs 0 0 0 0 0 0 0x100 0x200))))
      (fun t => t.regs.r6 == 0xFE && t.regs.r7 == 0x1FE && t.mem.val .b16 0x200 == 0x1234) = true ∧
    ends (exec .lodsb (holding [(0x100, [0x5A])] (eflags 0x400 (regs 0x1200 0 0 0 0 0 0x100 0))))
      (fun t => t.regs.r0 == 0x125A && t.regs.r6 == 0xFF) = true ∧
    ends (exec .stosw (holding [(0xFFFE, [0, 0])] (regs 0x2020 0 0 0 0 0 0 0xFFFE)))
      (fun t => t.regs.r7 == 0 && t.mem.val .b16 0xFFFE == 0x2020) = true := by decide +kernel

/-- V9.2: refused and permitted ports. -/
theorem test_ports_in :
    ends (exec (.inp .v (.imm 0x60)) State.reset)
      (fun t => t.regs.r0 == 0xFFFF && t.mem.invalid && t.ports.rd == []) = true ∧
    ends (exec (.inp .v (.imm 0x60)) (State.reset.hostSetIoPerm 0x60 0x61 0x01))
      (fun t => t.mem.invalid && t.ports.rd == [(0x60, 1)]) = true ∧
    pends (exec (.inp .b (.imm 0x60)) (level 3 0 State.reset)) ⟨13, .fault, true, true, 0⟩ = true := by decide +kernel

theorem test_ports_out :
    ends (exec (.outp .b (.imm 0x80)) ((regs 0x41 0 0 0 0 0 0 0).hostSetIoPerm 0x80 0x81 0x02))
      (fun t => t.ports.out == [⟨0x80, 1, 0x41⟩] && t.ports.wr == [(0x80, 1)] && !t.mem.invalid) = true ∧
    ends (exec (.outp .b (.imm 0x80)) (regs 0x41 0 0 0 0 0 0 0)) (fun t => t.ports.out == [] && t.mem.invalid) = true ∧
    ends (exec (.outp .v (.imm 0xFF)) ((regs 0x1234 0 0 0 0 0 0 0).hostSetIoPerm 0xFF 0x101 0x02))
      (fun t => t.ports.out == [⟨0xFF, 2, 0x1234⟩] && t.ports.wr == [(0xFF, 1), (0x100, 1)]) = true := by
  decide +kernel

/-- V10.1: LGDT keeps 24 bits of the base at operand size 16, SGDT stores all 32. -/
theorem test_table_registers :
    ends (exec (.lgdt (.abs16 0x900)) (holding [(0x900, [0xFF, 0xFF, 0x78, 0x56, 0x34, 0x12])] State.reset))
      (fun t => t.sys.gdtr == ⟨0x00345678, 0xFFFF⟩) = true ∧
    ends (exec (.lidt (.abs16 0x900)) ((holding [(0x900, [0xFF, 0xFF, 0x78, 0x56, 0x34, 0x12])] State.reset).setPfx
        { Pfx.clear with opsz := true })) (fun t => t.sys.idtr == ⟨0x12345678, 0xFFFF⟩) = true ∧
    ends (exec (.sgdt (.abs16 0x900)) ((holding [(0x900, List.replicate 6 0)] State.reset).setSys
        { State.reset.sys with gdtr := ⟨0x12345678, 0xFFFF⟩ }))
      (fun t => t.mem.val .b32 0x900 == 0x5678FFFF && t.mem.val .b16 0x904 == 0x1234) = true := by decide +kernel

/-- V10.2. -/
theorem test_machine_status :
    ends (exec (.lmsw (.reg .n0)) (level 0 0 State.reset)) (fun t => t.sys.cr.r0 == 1) = true ∧
    ends (exec (.lmsw (.reg .n0)) ((regs 0x0E 0 0 0 0 0 0 0).setSys
        { State.reset.sys with cr := { Bank.zero with r0 := 0x80000011 } })) (fun t => t.sys.cr.r0 == 0x8000001F)
      = true ∧
    ends (exec (.smsw (.reg .n0)) (State.reset.setSys
        { State.reset.sys with cr := { Bank.zero with r0 := 0x8000001F } })) (fun t => t.regs.r0 == 0x001F) = true ∧
    ends (exec (.movToCr .n3 .n1) (regs 0 0xABCD 0 0 0 0 0 0)) (fun t => t.sys.cr.r3 == 0xABCD) = true ∧
    pends (exec (.movToCr .n0 .n0) (level 3 3 State.reset)) ⟨13, .fault, true, true, 0⟩ = true := by decide +kernel

/-- V10.3. -/
theorem test_privilege :
    pends (exec .hlt (level 3 3 State.reset)) ⟨13, .fault, true, true, 0⟩ = true ∧
    pends (exec .cli (level 3 0 State.reset)) ⟨13, .fault, true, true, 0⟩ = true ∧
    ends (exec .sti (level 3 3 State.reset)) (fun t => t.flags.ifl) = true ∧
    ends (exec .hlt State.reset) (fun t => t.ctl.halted && t.ctl.reason == 0x20) = true := by decide +kernel

/-- V10.4. -/
theorem test_protected_only :
    (∀ i ∈ [Instr.arpl (.reg .n3) .n0, .sldt (.reg .n0), .str (.reg .n0), .lldt (.reg .n0), .ltr (.reg .n0)],
      pends (exec i State.reset) ⟨6, .fault, false, true, 0⟩ = true) ∧
    ends (exec (.arpl (.reg .n3) .n0) (level 0 0 (regs 3 0 0 8 0 0 0 0)))
      (fun t => t.regs.r3 == 0x0B && t.flags.zf) = true ∧
    ends (exec (.arpl (.reg .n3) .n0) (level 0 0 (regs 1 0 0 0x0B 0 0 0 0)))
      (fun t => t.regs.r3 == 0x0B && !t.flags.zf) = true := by decide +kernel

/-- GDT entries at 0800: null, code, data at 12345678, LDT, not present, TSS types 9 and 1. -/
def gdt : List (Nat × List Byte) := [
  (0x800, List.replicate 8 0), (0x808, [0xFF, 0xFF, 0x00, 0x00, 0x00, 0x9A, 0xCF, 0x00]),
  (0x810, [0x34, 0x12, 0x78, 0x56, 0x34, 0x93, 0x40, 0x12]), (0x818, [0xFF, 0x00, 0x00, 0x10, 0x00, 0x82, 0x00, 0x00]),
  (0x820, [0xFF, 0xFF, 0x00, 0x00, 0x00, 0x12, 0x00, 0x00]), (0x828, [0x67, 0x00, 0x00, 0x20, 0x00, 0x89, 0x00, 0x00]),
  (0x830, [0x2B, 0x00, 0x00, 0x30, 0x00, 0x81, 0x00, 0x00])]

/-- Protected mode at level 0 with that GDT (its last entry, 38, is not readable) and more blocks after it. -/
def withGdt (l : List (Nat × List Byte)) (s : State) : State :=
  let t := level 0 0 (holding (gdt ++ l) s)
  t.setSys { t.sys with gdtr := ⟨0x800, 0x3F⟩, idtr := ⟨0xA00, 0x6F⟩ }

/-- V3.14, V3.13. -/
theorem test_protected_loads :
    ends (exec (.movToSeg .ds (.reg .n0)) (withGdt [] (regs 0x0003 0 0 0 0 0 0 0)))
      (fun t => t.segs.ds == ⟨3, 0, 0, 0⟩) = true ∧
    ends (exec (.movToSeg .ds (.reg .n0)) (withGdt [] (regs 0x0008 0 0 0 0 0 0 0)))
      (fun t => t.segs.ds == ⟨8, 0, 0xFFFFFFFF, 0xC9A⟩) = true ∧
    ends (exec (.movToSeg .es (.reg .n0)) (withGdt [] (regs 0x0013 0 0 0 0 0 0 0)))
      (fun t => t.segs.es == ⟨0x13, 0x12345678, 0x1234, 0x493⟩) = true ∧
    pends (exec (.movToSeg .es (.reg .n0)) (withGdt [] (regs 0x0040 0 0 0 0 0 0 0)))
      ⟨13, .fault, true, true, 0x40⟩ = true ∧
    pends (exec (.movToSeg .es (.reg .n0)) (withGdt [] (regs 0x0020 0 0 0 0 0 0 0)))
      ⟨13, .fault, true, true, 0x20⟩ = true := by decide +kernel

/-- V10.4, V3.14. -/
theorem test_system_segments :
    ends (exec (.lldt (.reg .n0)) (withGdt [] (regs 0x0018 0 0 0 0 0 0 0)))
      (fun t => t.sys.ldtr == ⟨0x18, 0x1000, 0xFF, 0x082⟩) = true ∧
    ends (exec (.lldt (.reg .n0)) (withGdt [] (regs 0 0 0 0 0 0 0 0))) (fun t => t.sys.ldtr == ⟨0, 0, 0, 0⟩) = true ∧
    pends (exec (.lldt (.reg .n0)) (withGdt [] (regs 0x000C 0 0 0 0 0 0 0))) ⟨13, .fault, true, true, 0x0C⟩ = true ∧
    pends (exec (.ltr (.reg .n0)) (withGdt [] (regs 0x0018 0 0 0 0 0 0 0))) ⟨13, .fault, true, true, 0x18⟩ = true := by
  decide +kernel

/-- V10.5. -/
theorem test_msr :
    pends (exec .rdmsr (regs 0 0x10 0 0 0 0 0 0)) ⟨13, .fault, true, true, 0⟩ = true ∧
    ends (exec .rdmsr ((regs 0 0x10 0 0 0 0 0 0).setSys
        { State.reset.sys with msr := [(0x10, 0x1122334455667788)], msrPerm := [(0x10, 1)] }))
      (fun t => t.regs.r2 == 0x11223344 && t.regs.r0 == 0x55667788) = true ∧
    ends (exec .wrmsr ((regs 0x55667788 0x10 0x11223344 0 0 0 0 0).setSys
        { State.reset.sys with msrPerm := [(0x10, 2)] }))
      (fun t => t.sys.msr == [(0x10, 0x1122334455667788)]) = true := by decide +kernel

/-! ## Delivery, the run and reset (95_test_vectors sections 3, 8, 11, 12) -/

/-- V8.7: INT 21 at 1000:0010 delivered through the real-mode table. -/
theorem test_real_mode_delivery :
    ends (.next ((holding [(0x84, [0x00, 0x02, 0x00, 0x30]), (0xFA, List.replicate 6 0)]
        (eflags 0x202 (((regs 0 0 0 0 0x100 0 0 0).setEip 0x12).setSegs
          { State.reset.segs with cs := ⟨0x1000, 0x10000, 0xFFFF, 0x09B⟩ }))).hostRaise 0x21 .software none).deliver)
      (fun t => t.eip == 0x200 && t.segs.cs == ⟨0x3000, 0x30000, 0xFFFF, 0x09B⟩ && t.regs.r4 == 0xFA &&
        t.flags.toWord == 0x02 && t.mem.val .b32 0xFA == 0x10000012 && t.mem.val .b16 0xFE == 0x0202 &&
        t.intr.pending == none) = true := by decide +kernel

/-- V11.2, V11.3: #GP(0018) through a 32-bit gate on a 32-bit stack. -/
theorem test_gate_delivery :
    ends (.next (((flat (withGdt [(0xA68, [0x00, 0x04, 0x08, 0x00, 0x00, 0x8E, 0x00, 0x00]),
        (0x1FF0, List.replicate 16 0)] (regs 0 0 0 0 0x2000 0 0 0))).setIntr
          ⟨some ⟨13, .fault, true, true, 0x18⟩, 0x128, ⟨8, 0, 0xFFFFFFFF, 0xC9A⟩⟩).deliver))
      (fun t => t.eip == 0x400 && t.segs.cs == ⟨8, 0, 0xFFFFFFFF, 0xC9A⟩ && t.regs.r4 == 0x1FF0 &&
        t.mem.val .b32 0x1FF0 == 0x18 && t.mem.val .b32 0x1FF4 == 0x128 && t.mem.val .b32 0x1FF8 == 8 &&
        t.mem.val .b32 0x1FFC == 2 && t.intr.pending == none) = true := by decide +kernel

/-- V12.1: the first cycle of an empty machine fetches sentinels, `FF /7`, and the second cannot deliver vector 6. -/
theorem test_first_steps :
    ends (step State.reset) (fun t => t.intr.pending == some ⟨6, .fault, false, true, 0⟩ && t.ctl.icount == 1 &&
      t.mem.invalid && t.mem.attrAt 0 == 0x80) = true ∧
    ends (step (stateOf (step State.reset))) (fun t => t.ctl.halted && t.ctl.reason == 0x80 && !t.ctl.running &&
      t.ctl.icount == 1) = true := by decide +kernel

/-- V12.1, V1.7: with the run flags 14 the refused fetch ends the run with NO_EXEC_CODE. -/
theorem test_no_exec_code :
    ends (step (State.reset.hostRun 0x14 0)) (fun t => t.ctl.halted && t.ctl.reason == 0x04 && t.eip == 0 &&
      t.ctl.icount == 0 && t.mem.invalid && t.mem.attrAt 0 == 0x80) = true ∧
    ends (step ((State.reset.hostSetPerm 0 0x10 0x07).hostRun 0x14 0)) (fun t => t.ctl.reason == 0x10) = true := by
  decide +kernel

/-- P1: the first cycle of the source's program. -/
theorem test_step_runs_mov :
    ends (step (holding [(0, [0xB8, 0x34, 0x12, 0xCC])] State.reset))
      (fun t => t.regs.r0 == 0x1234 && t.eip == 3 && t.ctl.icount == 1 && t.mem.attrAt 0 == 0x4F &&
        t.mem.attrAt 3 == 0x0F) = true ∧
    ends (step (holding [(0, [0x66, 0xB8, 0x78, 0x56, 0x34, 0x12])] State.reset))
      (fun t => t.regs.r0 == 0x12345678 && t.eip == 6 && t.ctl.icount == 1) = true := by decide +kernel

/-- 10_state R38, 30_encoding R173: the two refusals of the fetch. -/
theorem test_fetch_refusals :
    (match step (holding [(0xFFFF, [0x90])] (State.reset.setEip 0xFFFF)) with
      | .refused .eipRunsOffSegment => true | _ => false) = true ∧
    (match step (holding [(0, [0xB8, 0x34, 0x12])] { State.reset with cfg := { Launch.defaults with maxInsnBytes := some 2 } }) with
      | .refused .insnTooLong => true | _ => false) = true := by decide +kernel

/-- V3.1 to V3.7. -/
theorem test_byte_path :
    (let m := (fill 0x03 State.reset.mem 0x10 [0]).store .b8 0x10 0x5A
     m.attrAt 0x10 == 0x2B && m.val .b8 0x10 == 0x5A && (m.touchRead .b8 0x10).attrAt 0x10 == 0x3B) = true ∧
    (let m := fill 0x01 State.reset.mem 0x10 [0x77]
     m.val .b8 0x10 == 0xFF && (m.touchRead .b8 0x10).attrAt 0x10 == 0x81 && (m.touchRead .b8 0x10).invalid) = true ∧
    (let m := (fill 0x02 State.reset.mem 0x10 [0]).store .b8 0x10 0x42
     m.attrAt 0x10 == 0x2A && m.val .b8 0x10 == 0xFF && (m.touchRead .b8 0x10).attrAt 0x10 == 0xAA) = true ∧
    (let m := fill 0x0B State.reset.mem 0x0FFF [0x34]
     m.val .b16 0x0FFF == 0xFF34 && (m.store .b16 0x0FFF 0xBEEF).dataAt 0x0FFF == 0xEF &&
       (m.store .b16 0x0FFF 0xBEEF).attrAt 0x1000 == 0x80 && (m.store .b16 0x0FFF 0xBEEF).invalid) = true ∧
    (let m := fill 0x0C State.reset.mem 0x10 [0x90]
     m.fetchByte 0x10 == 0x90 && (m.touch .fetch 0x10).attrAt 0x10 == 0x4C &&
       (m.touchRead .b8 0x10).attrAt 0x10 == 0x8C) = true := by decide +kernel

/-- 20_memory R124, 60_exceptions R681: with a memory-I/O handler, whose answers are free, instructions that access memory
answer a next state too. -/
theorem test_memory_handler :
    (let s := State.launch Launch.defaults (some 7) []
     s.noHooks = false ∧ s.wf = true ∧
     ∀ i ∈ [Instr.add (.rmR .v (.mem (.m16 .n7 .none)) .n0), .mov (.rRm .v .n0 (.mem (.m16 .n7 .none))), .movsb, .pusha,
       .popa, .iret, .enter 4 2], ends (exec i s) (fun _ => true) = true) ∧
    ends (exec (.mov (.rIz .n0 (.w 5))) (State.launch Launch.defaults (some 7) [])) (fun t => t.regs.r0 == 5) = true := by
  decide +kernel

/-- 00_scope R20: a handler acts at its call only, so that what accesses no memory leaves all it could act on. -/
theorem test_memory_handler_acts_at_its_call :
    (let s := State.launch Launch.defaults (some 7) []
     ends (exec (.xchg (.acc .n4)) s) (fun t => t == s) = true ∧
     ends (exec (.inc (.reg .n0)) s) (fun t => t.io == some 7 && t.segs == s.segs && t.sys == s.sys) = true) ∧
    (let s := (State.launch Launch.defaults (some 7) []).setCtl ⟨true, true, 0x20, 1⟩
     ends (step s) (fun t => t == s.setCtl ⟨false, true, 0x20, 1⟩) = true) := by decide +kernel

/-- V3.8, V3.9. -/
theorem test_host_calls :
    (State.reset.hostSetPerm 0x1000 0x1000 0x0F).mem == State.reset.mem ∧
    (State.reset.hostSetPerm 0x1000 0x1002 0x0F).mem.attr == [(0x1000, 0x0F), (0x1001, 0x0F)] ∧
    ((State.reset.setMem (fill 0xB3 State.reset.mem 0x10 [1])).hostSetPerm 0x10 0x11 0x01).mem.attrAt 0x10 == 0xB1 ∧
    ((State.reset.setMem (fill 0xBB State.reset.mem 0x10 [1])).hostResetAccessStats).mem.attrAt 0x10 == 0x0B := by
  decide +kernel

/-- 10_state R58, 20_memory R122, 60_exceptions R688: the host grants an MSR, fills an aliased buffer and loads a
segment register. -/
theorem test_host_writes :
    ends (exec .rdmsr (((regs 0 0x10 0 0 0 0 0 0).hostSetMsr 0x10 0x1122334455667788).hostSetMsrPerm 0x10 1))
      (fun t => t.regs.r2 == 0x11223344 && t.regs.r0 == 0x55667788 && t.intr.pending == none) = true ∧
    (let s := (State.reset.setMem (fill 0xBB State.reset.mem 0x10 [1])).hostWriteBuffer 0x10 [0x5A]
     s.mem.dataAt 0x10 == 0x5A && s.mem.attrAt 0x10 == 0xBB) = true ∧
    (State.reset.hostLoadSeg .ds 0x1234).segs.ds = ⟨0x1234, 0x12340, 0xFFFF, 0x093⟩ ∧
    ((withGdt [] State.reset).hostLoadSeg .ds 0x20).intr.pending = some ⟨13, .fault, true, true, 0x20⟩ ∧
    (State.reset.hostSetSeg .fs ⟨1, 2, 3, 4⟩).segs.fs = ⟨1, 2, 3, 4⟩ := by decide +kernel

/-- The table word of `MOV AX,1234` (opcode B8, then 34 12) placed where the next step fetches. -/
theorem test_with_fetch_word :
    ends (step (State.reset.withFetchWord 24 0x1234B8)) (fun t => t.regs.r0 == 0x1234 && t.eip == 3) = true ∧
    decodeTableWord 24 0x1234B8 = some (.mov (.rIz .n0 (.w 0x1234))) := by decide +kernel

/-! ## Witnesses: for every statement with hypotheses a state and operands that meet them all. `all` and `any` over a
span stand for the statements' quantifiers over its addresses (List.all_eq_true, List.any_eq_true). -/

/-- A machine with `MOV AX,1234` at EIP FFFC, so that the instruction ends at the top of the offset space. -/
def atEnd : State := holding [(0xFFFC, [0xB8, 0x34, 0x12])] (State.reset.setEip 0xFFFC)

/-- The bytes after it, refused: sentinels. -/
def sentinels (n : Nat) : List Byte := List.replicate n 0xFF

/-- At the top of the offset space, and with sentinels for code. -/
theorem witness_StepRunsDecodedInstruction :
    ∀ c ∈ [(atEnd, Instr.mov (.rIz .n0 (.w 0x1234)), 8), (State.reset, .ud (.slot .grp5 .n7 (.reg .n7)), 9)],
      let s := c.1
      let rest := sentinels c.2.2
      s.paged = true ∧ s.ctl.running = true ∧ s.intr.pending = none ∧ s.ctl.halted = false ∧ s.stopBits = 0 ∧
      s.cfg.maxInsnBytes = none ∧ s.askCheck = (false, s) ∧
      decode ⟨s.defSz, s.defSz⟩ ((span 11 (s.segs.cs.base + s.eip)).map s.mem.fetchByte) = .ok (c.2.1, rest) ∧
      c.2.1.isPfx = false ∧
      ((span (11 - rest.length) (s.segs.cs.base + s.eip)).all fun b => s.fetchReason b == 0) = true ∧
      s.eip.toNat + (11 - rest.length) ≤ s.eipTop := by decide +kernel

/-- The state in which the prefix at CS:EIP is executed: its byte fetched, EIP past it. -/
def pastByte (s : State) : State :=
  { s with mem := s.mem.touch .fetch (s.segs.cs.base + s.eip), eip := s.eip + 1 }

/-- The state the prefixes `ps` leave. -/
def afterPrefixes : List Instr → State → State
  | [], s => s
  | p :: ps, s => afterPrefixes ps (stateOf (exec p (pastByte s)))

/-- Whether the bytes at CS:EIP are the prefixes `ps` in turn. -/
def prefixesAt : List Instr → State → Bool
  | [], _ => true
  | p :: ps, s =>
    p.isPfx && ends (exec p (pastByte s)) (fun _ => true) &&
      (match decode ⟨s.osz, s.asz⟩ ((span 11 (s.segs.cs.base + s.eip)).map s.mem.fetchByte) with
        | .ok (i, rest) => i == p && rest.length == 10
        | .error _ => false) &&
      prefixesAt ps (stateOf (exec p (pastByte s)))

theorem prefixesRun_of_prefixesAt : ∀ {ps : List Instr} {s : State}, prefixesAt ps s = true →
    prefixesRun ps s (afterPrefixes ps s)
  | [], _, _ => rfl
  | p :: ps, s, h => by
    simp only [prefixesAt, Bool.and_eq_true] at h
    obtain ⟨⟨⟨hp, he⟩, hd⟩, hr⟩ := h
    refine ⟨hp, ?_, _, next_of_ends he, prefixesRun_of_prefixesAt hr⟩
    split at hd
    · simp only [Bool.and_eq_true, beq_iff_eq] at hd
      exact ⟨_, hd.2, hd.1 ▸ ‹_›⟩
    · cases hd

/-- The state in which the first prefix is fetched. -/
def atPrefix (s : State) : State :=
  { s with draws := s.draws + 1, intr := { s.intr with savedEip := s.eip, savedCs := s.segs.cs }, pfx := Pfx.clear }

/-- `F3 66 A5` at the top of the offset space; `2E 66 B8 78 56 34`, and `2E 66` alone, before a byte whose refusal ends
the run; and no prefix before such a byte. -/
theorem witness_StepAppliesPrefixesThenInstruction : ∀ c ∈ [
      (0xFFFC, ([0xF3, 0x66, 0xA5] : List Byte), [Instr.pfxRep, .pfxOpSize], Instr.movsd, 10, 3),
      (0x0000, [0x2E, 0x66, 0xB8, 0x78, 0x56, 0x34], [.pfxCs, .pfxOpSize], .mov (.rIz .n0 (.d 0xFF345678)), 6, 6),
      (0x0000, [0x2E, 0x66], [.pfxCs, .pfxOpSize], .ud (.slot .grp5 .n7 (.reg .n7)), 9, 2),
      (0x0000, [], [], .ud (.slot .grp5 .n7 (.reg .n7)), 9, 0)],
    let s := (holding [(c.1, c.2.1)] (State.reset.setEip (BitVec.ofNat 32 c.1))).hostRun 0x04 0
    let ps := c.2.2.1
    let t := afterPrefixes ps (atPrefix s)
    let rest := sentinels c.2.2.2.2.1
    let k := c.2.2.2.2.2
    let n := ps.length + (11 - rest.length)
    let code := span n (s.segs.cs.base + s.eip)
    s.paged = true ∧ s.ctl.running = true ∧ s.intr.pending = none ∧ s.ctl.halted = false ∧ s.stopBits = 0 ∧
    s.cfg.maxInsnBytes = none ∧ s.askCheck = (false, s) ∧
    prefixesAt ps (atPrefix s) = true ∧                         -- so `prefixesRun`, by `prefixesRun_of_prefixesAt`
    decode ⟨t.osz, t.asz⟩ ((span 11 (t.segs.cs.base + t.eip)).map t.mem.fetchByte) = .ok (c.2.2.2.1, rest) ∧
    c.2.2.2.1.isPfx = false ∧ s.eip.toNat + k ≤ s.eipTop ∧
    if k = n then (code.all fun b => s.fetchReason b == 0) = true
    else
      ps.length ≤ k ∧ code[k]? = some (BitVec.ofNat 32 k) ∧ s.fetchReason (BitVec.ofNat 32 k) ≠ 0 ∧
      ((code.take k).all fun b => s.fetchReason b == 0) = true := by decide +kernel

theorem witness_EveryByteSequenceDecodes : 11 ≤ (sentinels 11).length := by decide

theorem witness_DecodeOfEncodeIsSame :
    (Instr.mov (.evIz (.mem (.sib .n4 .n4 0 (.d32 0x100))) (.d 0x12345678))).wf flat32 = true := by decide

theorem witness_ResetLeaves : Sparse.wf 0 (2 ^ 32) (State.reset.mem.data ++ [(0xFFFFFFFF, (0x12 : Byte))]) = true := by
  decide

theorem witness_StepKeepsCanonicalForm : State.reset.wf = true ∧ ∃ t, step State.reset = .next t :=
  ⟨by decide, _, next_of_ends (by decide +kernel)⟩

/-- The reset machine with `mem_invalid` set. -/
def tainted : State := State.reset.setMem { State.reset.mem with invalid := true }

theorem witness_StepKeepsInvalidFlag : tainted.noHooks = true ∧ tainted.mem.invalid = true ∧
    ∃ t, step tainted = .next t :=
  ⟨by decide, by decide, _, next_of_ends (by decide +kernel)⟩

/-- A store that makes a byte valid: `MOV [0200],AL` with attribute 03 at 0200. -/
def storing : State :=
  (holding [(0, [0xA2, 0x00, 0x02])] State.reset).setMem
    (fill 0x03 (holding [(0, [0xA2, 0x00, 0x02])] State.reset).mem 0x200 [0])

theorem witness_StepKeepsPermissions : storing.noHooks = true ∧ storing.mem.wf = true ∧
    (∃ t, step storing = .next t) ∧
    ends (step storing) (fun t => t.mem.perms 0x200 == 0x0B && storing.mem.perms 0x200 == 0x03) = true :=
  ⟨by decide +kernel, by decide +kernel, ⟨_, next_of_ends (by decide +kernel)⟩, by decide +kernel⟩

theorem witness_ByteAccessEffects :
    (∀ v ∈ [0x09, 0xFF, 0x08, 0x01, 0x02, 0xFD, 0x0C, 0x04, 0x00],
      (fill (BitVec.ofNat 8 v) State.reset.mem 0xFFFFFFFF [0x5A]).wf = true) ∧
    (State.launch Launch.defaults (some 7) []).io = some 7 ∧
    (0x09 : Byte) &&& 0x09 = 0x09 ∧ (0x08 : Byte) &&& 0x09 ≠ 0x09 ∧ (0x02 : Byte) &&& 0x02 = 0x02 ∧
    (0xFD : Byte) &&& 0x02 ≠ 0x02 ∧ (0x0C : Byte) &&& 0x0C = 0x0C ∧ (0x04 : Byte) &&& 0x0C ≠ 0x0C := by decide +kernel

theorem witness_ReadAfterWrite :
    (fill 0x03 State.reset.mem 0xFFFFFFFE [1, 2, 3, 4]).wf = true ∧
    ((span Width.b32.bytes 0xFFFFFFFE).all fun b =>
      (fill 0x03 State.reset.mem 0xFFFFFFFE [1, 2, 3, 4]).attrAt b &&& 0x03 == 0x03) = true := by decide +kernel

theorem witness_RealModeStepKeepsLimitsAndRights :
    (holding [(0, [0x8E, 0xD8])] State.reset).pe = false ∧
    (holding [(0, [0x8E, 0xD8])] State.reset).noHooks = true ∧
    ∃ t, step (holding [(0, [0x8E, 0xD8])] State.reset) = .next t :=
  ⟨by decide +kernel, by decide +kernel, _, next_of_ends (by decide +kernel)⟩

theorem witness_OnlyFarTransfersLoadCs : State.reset.cfg.callJmpHook = false ∧ State.reset.io = none ∧
    (∃ t, exec (.movToSeg .ss (.reg .n0)) State.reset = .next t) ∧
    (∀ rm, Instr.movToSeg .ss (.reg .n0) ≠ .movToSeg .cs rm) ∧ Instr.movToSeg .ss (.reg .n0) ≠ .popSeg .cs :=
  ⟨by decide, rfl, ⟨stateOf (exec (.movToSeg .ss (.reg .n0)) State.reset), next_of_ends (by decide +kernel)⟩, fun _ h => (nomatch h),
    by decide⟩

theorem witness_UserModeKeepsSystemRegisters :
    (level 1 3 State.reset).cfg.callJmpHook = false ∧ (level 1 3 State.reset).io = none ∧
    (level 1 3 State.reset).pe = true ∧
    (level 1 3 State.reset).cpl ≠ 0 ∧ ∃ t, exec (.lmsw (.reg .n0)) (level 1 3 State.reset) = .next t :=
  ⟨by decide, rfl, by decide, by decide, _, next_of_ends (by decide +kernel)⟩

theorem witness_EveryFaultIsPrecise : ∃ t, State.reset.paged = true ∧
    State.reset.cfg.callJmpHook = false ∧ State.reset.intr.pending = none ∧ exec (.div .b (.reg .n3)) State.reset = .next t ∧ t.intr.pending = some ⟨0, .fault, false, true, 0⟩ ∧
    (⟨0, .fault, false, true, 0⟩ : Pending).kind = .fault :=
  ⟨_, by decide, by decide, by decide, next_of_ends (by decide +kernel), by decide +kernel, rfl⟩

/-- A halted core, one whose run is over, one at its instruction limit, one with a code check, whose answer is free, and
one whose first byte is refused. -/
theorem witness_WhatEndsARun :
    (let s := State.reset.setCtl ⟨true, true, 0x20, 1⟩
     s.ctl.running = true ∧ s.intr.pending = none ∧ s.ctl.halted = true) ∧
    (State.reset.setCtl ⟨false, true, 0x20, 1⟩).ctl.running = false ∧
    (let s := State.reset.hostRun 0x02 0
     s.ctl.running = true ∧ s.intr.pending = none ∧ s.ctl.halted = false ∧ s.stopBits ≠ 0) ∧
    (let s := State.launch { Launch.defaults with codeCheck := true } none []
     s.cfg.codeCheck = true ∧ s.ctl.running = true ∧ s.intr.pending = none ∧ s.ctl.halted = false ∧ s.stopBits = 0) ∧
    (∀ f ∈ [(0x04, 0x00, 0x04), (0x10, 0x04, 0x10)],
      let s := (State.reset.setMem (fill (BitVec.ofNat 8 f.2.1) State.reset.mem 0 [0])).hostRun (BitVec.ofNat 5 f.1) 0
      s.paged = true ∧ s.ctl.running = true ∧ s.intr.pending = none ∧ s.ctl.halted = false ∧ s.stopBits = 0 ∧
      s.cfg.maxInsnBytes = none ∧ s.askCheck = (false, s) ∧
      decode ⟨s.defSz, s.defSz⟩ ((span 11 (s.segs.cs.base + s.eip)).map s.mem.fetchByte) =
        .ok (.ud (.slot .grp5 .n7 (.reg .n7)), sentinels 9) ∧
      (span (11 - (sentinels 9).length) (s.segs.cs.base + s.eip))[0]? = some 0 ∧
      s.fetchReason 0 = BitVec.ofNat 8 f.2.2 ∧ s.eip.toNat + 0 ≤ s.eipTop) := by decide +kernel

theorem witness_FirstRaiseWins : State.reset.intr.pending = none := by decide

/-- A real-mode machine with the entry of vector FF and an interrupt pending on it. -/
def interrupted (hasErr restart : Bool) : State :=
  (holding [(0xF4, List.replicate 12 0), (0x3FC, [0x00, 0x02, 0x00, 0x30])] (regs 0 0 0 0 0x100 0 0 0)).setIntr
    ⟨some ⟨0xFF, .fault, hasErr, restart, 7⟩, 0x12, SegReg.resetCode⟩

theorem witness_RealModeDelivery : ∀ e ∈ [false, true], ∀ r ∈ [false, true],
    (interrupted e r).paged = true ∧ (interrupted e r).pe = false ∧
    (interrupted e r).intr.pending = some ⟨0xFF, .fault, e, r, 7⟩ ∧
    (interrupted e r).cfg.intrHook = false ∧
    (interrupted e r).ctl.running = true ∧
    holdsAll (interrupted e r).mem ((interrupted e r).sys.idtr.base + BitVec.ofNat 32 (4 * (0xFF : Byte).toNat))
      [0x00, 0x02, 0x00, 0x30] = true := by
  decide +kernel

/-- A protected-mode machine with an IDT of the given limit, a gate of vector 13, and vector 13 pending. -/
def gated (limit : BitVec 16) (gate : List Byte) : State :=
  let s := flat (withGdt [(0xA68, gate), (0x1FF0, List.replicate 16 0)] (regs 0 0 0 0 0x2000 0 0 0))
  (s.setIntr ⟨some ⟨13, .fault, true, true, 0x18⟩, 0x128, ⟨8, 0, 0xFFFFFFFF, 0xC9A⟩⟩).setSys
    { s.sys with idtr := ⟨0xA00, limit⟩ }

/-- The address of the gate of vector 13. -/
def gateAt : Word := 0xA00 + BitVec.ofNat 32 (8 * (13 : Byte).toNat)

theorem witness_DeliveryFailureHalts :
    ((State.reset.hostRaise 3 .software none).paged = true ∧
      (State.reset.hostRaise 3 .software none).intr.pending = some ⟨3, .software, false, false, 0⟩ ∧
      (State.reset.hostRaise 3 .software none).cfg.intrHook = false ∧
      (State.reset.hostRaise 3 .software none).pe = false ∧
      ((span 4 (State.reset.sys.idtr.base + BitVec.ofNat 32 (4 * (3 : Byte).toNat))).any fun b =>
        !(State.reset.hostRaise 3 .software none).mem.permitted .read b) = true) ∧
    ((gated 0x6E []).paged = true ∧ (gated 0x6E []).pe = true ∧
      (gated 0x6E []).sys.idtr.limit.toNat < 8 * (13 : Byte).toNat + 7) ∧
    ((gated 0x6F []).paged = true ∧ (gated 0x6F []).pe = true ∧
      ((span 8 gateAt).any fun b => !(gated 0x6F []).mem.permitted .read b) = true) ∧
    (∀ n ∈ [0x0E, 0x9E, 0x87, 0x85],
      let b5 : Byte := BitVec.ofNat 8 n
      let g : List Byte := [0x00, 0x04, 0x08, 0x00, 0x00, b5, 0x00, 0x00]
      (gated 0x6F g).paged = true ∧ (gated 0x6F g).pe = true ∧
      8 * (13 : Byte).toNat + 7 ≤ (gated 0x6F g).sys.idtr.limit.toNat ∧
      (gated 0x6F g).intr.pending = some ⟨13, .fault, true, true, 0x18⟩ ∧
      (gated 0x6F g).cfg.intrHook = false ∧ (gated 0x6F g).ctl.running = true ∧
      holdsAll (gated 0x6F g).mem gateAt g = true ∧
      (b5.getLsbD 7 = false ∨ b5.getLsbD 4 = true ∨ (b5.toNat % 16 ≠ 0x6 ∧ b5.toNat % 16 ≠ 0xE))) := by
  decide +kernel

theorem witness_GateDelivery : ∀ n ∈ [(0x8E, 0x08), (0x86, 0x08), (0xEE, 0x20)],
    let c : Byte × Byte := (BitVec.ofNat 8 n.1, BitVec.ofNat 8 n.2)
    let g : List Byte := [0x00, 0x04, c.2, 0x00, 0x00, c.1, 0x00, 0x00]
    (gated 0x6F g).paged = true ∧ (gated 0x6F g).pe = true ∧
    (gated 0x6F g).intr.pending = some ⟨13, .fault, true, true, 0x18⟩ ∧
    (gated 0x6F g).cfg.intrHook = false ∧
    8 * (13 : Byte).toNat + 7 ≤ (gated 0x6F g).sys.idtr.limit.toNat ∧ holdsAll (gated 0x6F g).mem gateAt g = true ∧
    c.1.getLsbD 7 = true ∧ c.1.getLsbD 4 = false ∧ (c.1.toNat % 16 = 0x6 ∨ c.1.toNat % 16 = 0xE) := by
  decide +kernel

/-- Both outcomes of the load of CS: selector 8 is loaded, selector 20 is not present. -/
theorem witness_GateDelivery_outcomes :
    (gated 0x6F [0x00, 0x04, 0x08, 0x00, 0x00, 0x8E, 0x00, 0x00]).segOutcome SegReg.resetCode 0x0008 =
      some ⟨8, 0, 0xFFFFFFFF, 0xC9A⟩ ∧
    (gated 0x6F [0x00, 0x04, 0x20, 0x00, 0x00, 0x8E, 0x00, 0x00]).segOutcome SegReg.resetCode 0x0020 = none ∧
    (gated 0x6F [0x00, 0x04, 0x08, 0x00, 0x00, 0x8E, 0x00, 0x00]).deliver.intr.pending = none ∧
    (gated 0x6F [0x00, 0x04, 0x20, 0x00, 0x00, 0x8E, 0x00, 0x00]).deliver.intr.pending ≠ none := by decide +kernel

/-- An interrupt pending on a machine with an interrupt hook; what the hook answers is free. -/
theorem witness_HookedDelivery :
    let s := { (interrupted true true) with cfg := { Launch.defaults with intrHook := true } }
    s.intr.pending = some ⟨0xFF, .fault, true, true, 7⟩ ∧ s.cfg.intrHook = true ∧ s.ctl.running = true ∧
    s.io = none := by decide +kernel

theorem witness_IretUndoesDelivery : ∀ f ∈ [id, flat], ∀ e ∈ [false, true], ∀ r ∈ [false, true],
    let s := f (interrupted e r)
    let p : Pending := ⟨0xFF, .fault, e, r, 7⟩
    s.paged = true ∧ s.pe = false ∧ s.cfg.intrHook = false ∧ s.intr.pending = some p ∧
    (span 4 (s.sys.idtr.base + BitVec.ofNat 32 (4 * p.vector.toNat))).all (s.mem.permitted .read) = true ∧
    (∀ k ∈ [1, 2, 3], ((span s.segs.ss.size.width.bytes
        (s.segs.ss.base + s.segs.ss.size.trunc (s.regs.r4 - BitVec.ofNat 32 (k * s.segs.ss.size.width.bytes)))).all
      fun b => s.mem.attrAt b &&& 0x03 == 0x03) = true) ∧
    (if p.restart then s.intr.savedEip else s.eip).toNat < 65536 := by decide +kernel

theorem witness_RegisterAliases : 0 < 32 ∧ 31 < 32 := by decide

/-- The hypothesis most statements about an instruction have. -/
theorem witness_memory : State.reset.paged = true ∧
    (holding [(0x200, [0]), (0xFFFFFFFF, [0x12])] State.reset).paged = true := by decide +kernel

/-- A state with a word at [BX] for the statements whose one hypothesis is the canonical form of memory. -/
def operands : State := holding [(0x200, [0x34, 0x12, 0x78, 0x56])] (regs 0x0102 4 0 0x200 0 0 0 0)

/-- The operand [BX]. -/
def atBx : RM := .mem (.m16 .n7 .none)

/-- The hypothesis holds in `operands`, and each instruction completes there without an exception. -/
def completesHere (l : List Instr) : Prop :=
  operands.paged = true ∧ l.all (fun i => ends (exec i operands) fun t => t.intr.pending == none && t.eip == 0) = true

theorem witness_AdditionFollowsTruthTable : completesHere [Instr.add (.rmR .v atBx .n0), .adc (.rRm .b .n0 atBx),
    .add (.accIz (.w 0xFFFF))] := by
  unfold completesHere
  decide +kernel

theorem witness_SubtractionFollowsTruthTable : completesHere [Instr.sub (.evIb atBx 0xFF), .sbb (.ebIb atBx 1), .cmp
    (.accIz (.w 0))] := by
  unfold completesHere
  decide +kernel

theorem witness_LogicResults : completesHere [Instr.and (.accIb 0), .or (.evIz atBx (.w 1)), .xor (.rmR .v atBx
    .n0), .test (.rmR .b atBx .n0)] := by
  unfold completesHere
  decide +kernel

theorem witness_UnaryResults : completesHere [Instr.inc (.e .v atBx), .dec (.reg .n4), .neg .v atBx, .not .b atBx]
    := by
  unfold completesHere
  decide +kernel

theorem witness_MultiplyGivesProduct : completesHere [Instr.mul .v atBx, .imul .b atBx, .imul2 .n0 atBx, .imul3 .n0
    atBx (.ib 0xFD)] := by
  unfold completesHere
  decide +kernel

theorem witness_ShiftResults : completesHere [Instr.shl .v atBx .cl, .shr .v atBx .one, .sar .b atBx (.imm 31), .shl
    .b atBx (.imm 32)] := by
  unfold completesHere
  decide +kernel

theorem witness_RotateResults : completesHere [Instr.rol .v atBx (.imm 16), .ror .v atBx .one, .rcl .b atBx (.imm
    9), .rcr .v atBx .cl] := by
  unfold completesHere
  decide +kernel

theorem witness_DoubleShiftResults : completesHere [Instr.shld atBx .n0 .cl, .shrd atBx .n0 (.imm 31), .shld (.reg
    .n0) .n0 (.imm 16)] := by
  unfold completesHere
  decide +kernel

theorem witness_BitTestResults : completesHere [Instr.bt atBx (.reg .n0), .bts atBx (.imm 15), .btr atBx (.reg .n1),
    .btc (.reg .n0) (.imm 0xFF)] := by
  unfold completesHere
  decide +kernel

theorem witness_BitScanResults : completesHere [Instr.bsf .n0 atBx, .bsr .n0 atBx, .bsf .n0 (.reg .n4)] := by
  unfold completesHere
  decide +kernel

theorem witness_MovCopiesSource : completesHere [Instr.mov (.rmR .v atBx .n0), .mov (.rRm .b .n7 atBx), .mov (.ebIb
    atBx 1), .mov (.evIz atBx (.w 1)), .mov (.rIb .n4 1), .mov (.rIz .n4 (.w 1)), .mov (.accOff .v (.o16 0x200)),
    .mov (.offAcc .b (.o16 0xFFFF))] := by
  unfold completesHere
  decide +kernel

theorem witness_SetccResults : completesHere [Instr.seto atBx, .setno atBx, .setb atBx, .setnb atBx, .setz atBx,
    .setnz atBx, .setbe atBx, .setnbe atBx, .sets atBx, .setns atBx, .setp atBx, .setnp atBx, .setl atBx, .setnl
    atBx, .setle atBx, .setnle atBx] := by
  unfold completesHere
  decide +kernel

theorem witness_PushResults : completesHere [Instr.push (.seg .cs), .push (.reg .n4), .push (.iz (.w 1)), .push (.ib
    0xFF), .push (.ev atBx), .pushf, .pushfd] := by
  unfold completesHere
  decide +kernel

theorem witness_PopResults : completesHere [Instr.pop (.reg .n4), .pop (.ev atBx)] := by
  unfold completesHere
  decide +kernel

theorem witness_PopFlagsResults : completesHere [Instr.popf, .popfd] := by
  unfold completesHere
  decide +kernel

theorem witness_PushAllPopAll : completesHere [Instr.pusha, .pushad, .popa, .popad] := by
  unfold completesHere
  decide +kernel

/-- Level 0, level 1, the deepest level, and a level above it; LEAVE. -/
theorem witness_EnterAndLeave : completesHere [Instr.enter 8 0, .enter 0 1, .enter 0xFFFF 31, .enter 0 0x22, .leave] := by
  unfold completesHere
  decide +kernel

theorem witness_DivisionResults :
    let s : State := regs 0x0FFF 0 0 0x10 0 0 0 0
    let u : State := regs 0x1000 0 0 0x10 0 0 0 0
    let v : State := regs 0x0080 0 0 0xFF 0 0 0 0
    let x : State := regs 0x0080 0 0 0x01 0 0 0 0
    let dd : State → BitVec 16 := fun s => s.regs.rn .b8 .n4 ++ s.regs.rn .b8 .n0
    let d : State → BitVec 8 := fun s => s.rmVal .b8 (.reg .n3)
    s.paged = true ∧ (d s).toNat ≠ 0 ∧ (dd s).toNat / (d s).toNat = 2 ^ 8 - 1 ∧
    u.paged = true ∧ (dd u).toNat / (d u).toNat = 2 ^ 8 ∧ (State.reset.rmVal .b8 (.reg .n3)).toNat = 0 ∧
    v.paged = true ∧ (d v).toInt ≠ 0 ∧ fitsSigned 8 ((dd v).toInt.tdiv (d v).toInt) = true ∧
    x.paged = true ∧ fitsSigned 8 ((dd x).toInt.tdiv (d x).toInt) = false := by decide +kernel

theorem witness_DecimalAdjustResults :
    State.reset.paged = true ∧ (0x01 : Byte).toNat ≠ 0 ∧ (0xFF : Byte).toNat ≠ 0 ∧ (0x00 : Byte).toNat = 0 := by decide

theorem witness_FlagAndControlInstructions :
    State.reset.pe = false ∧ (level 0 0 State.reset).cpl = 0 ∧
    (level 3 3 State.reset).cpl.toNat ≤ (level 3 3 State.reset).flags.iopl.toNat ∧ (level 3 3 State.reset).pe = true := by
  decide

theorem witness_RegisterMoveResults :
    State.reset.paged = true ∧ XchgForm.acc .n0 = .acc .n0 ∧
    ∀ i ∈ [Instr.movzx .v .n0 (.reg .n3), .movsx .b .n0 (.reg .n7), .lea .n0 (.abs16 0xFFFF), .xlat, .cbw, .cwde,
        .cwd, .cdq, .xchg (.rmR .b (.reg .n4) .n0), .xchg (.acc .n3), .nop],
      ends (exec i State.reset) (fun t => t.flags == State.reset.flags) = true := by decide +kernel

theorem witness_RealModeSegmentLoads :
    let s := holding [(0x10, [0xFF, 0xFF, 0xFF, 0xFF])] State.reset
    Seg.ds ≠ .cs ∧ Seg.ss ≠ .cs ∧ s.paged = true ∧ s.pe = false ∧
    ∀ i ∈ [Instr.movToSeg .ds (.mem (.abs16 0x10)), .popSeg .ss, .lds .n3 (.abs16 0x10), .les .n3 (.abs16 0x10),
        .lfs .n3 (.abs16 0x10), .lgs .n3 (.abs16 0x10), .lss .n4 (.abs16 0x10)],
      ends (exec i s) (fun t => t.intr.pending == none) = true := by decide +kernel

/-- A descriptor inside, outside and unreadable, by the selector in AX (`holdsAll` is `Memory.holds`, `holdsAll_iff`), in
the GDT and, for the selectors with bit 2 set, in an LDT at 0810 with limit 2F. -/
theorem witness_ProtectedSegmentLoad :
    let s : Nat → State := fun sel => withGdt [] (regs (BitVec.ofNat 32 sel) 0 0 0 0 0 0 0)
    let u : Nat → State := fun sel => (s sel).setSys { (s sel).sys with ldtr := ⟨0x18, 0x810, 0x2F, 0x082⟩ }
    Seg.ds ≠ .cs ∧
    (∀ sel ∈ [0x03, 0x10, 0x18, 0x20, 0x38, 0x40], (s sel).paged = true ∧ (s sel).pe = true ∧
      ((s sel).rmVal .b16 (.reg .n0)).toNat = sel ∧ ((s sel).rmVal .b16 (.reg .n0)).getLsbD 2 = false) ∧
    (∀ sel ∈ [0x04, 0x14, 0x2C, 0x34], (u sel).paged = true ∧ (u sel).pe = true ∧
      ((u sel).rmVal .b16 (.reg .n0)).toNat = sel ∧ ((u sel).rmVal .b16 (.reg .n0)).getLsbD 2 = true) ∧
    (0x0003 : BitVec 16).toNat < 4 ∧ 4 ≤ (0x0004 : BitVec 16).toNat ∧
    (4 ≤ (0x0040 : BitVec 16).toNat ∧ (s 0x40).sys.gdtr.limit.toNat < 0x40 / 8 * 8 + 7) ∧
    (u 0x34).sys.ldtr.limit.toNat < 0x34 / 8 * 8 + 7 ∧
    (0x38 / 8 * 8 + 7 = (s 0x38).sys.gdtr.limit.toNat ∧
      ((span 8 (0x838 : Word)).any fun b => !(s 0x38).mem.permitted .read b) = true) ∧
    (0x2C / 8 * 8 + 7 = (u 0x2C).sys.ldtr.limit.toNat ∧
      ((span 8 ((u 0x2C).sys.ldtr.base + 0x28)).any fun b => !(u 0x2C).mem.permitted .read b) = true) ∧
    (holdsAll (s 0x20).mem 0x820 [0xFF, 0xFF, 0x00, 0x00, 0x00, 0x12, 0x00, 0x00] = true ∧
      (0x12 : Byte).getLsbD 7 = false) ∧
    (holdsAll (s 0x10).mem 0x810 [0x34, 0x12, 0x78, 0x56, 0x34, 0x93, 0x40, 0x12] = true ∧
      (0x93 : Byte).getLsbD 7 = true ∧ (0x93 : Byte).getLsbD 4 = true) ∧
    holdsAll (u 0x04).mem ((u 0x04).sys.ldtr.base + 0) [0x34, 0x12, 0x78, 0x56, 0x34, 0x93, 0x40, 0x12] = true ∧
    holdsAll (u 0x14).mem ((u 0x14).sys.ldtr.base + 0x10) [0xFF, 0xFF, 0x00, 0x00, 0x00, 0x12, 0x00, 0x00] = true ∧
    (holdsAll (s 0x18).mem 0x818 [0xFF, 0x00, 0x00, 0x10, 0x00, 0x82, 0x00, 0x00] = true ∧
      (0x82 : Byte).getLsbD 4 = false) := by
  decide +kernel

/-- What POP SS and LSS do with a loaded, a null and a refused selector: V3.14, and a selector of the LDT. -/
theorem test_protected_pop_and_far_loads :
    let s := withGdt [(0x900, [0x34, 0x12, 0x10, 0x00]), (0x910, [0x20, 0x00])] (regs 0 0 0 0 0x902 0 0 0)
    ends (exec (.popSeg .ss) s) (fun t => t.segs.ss == ⟨0x10, 0x12345678, 0x1234, 0x493⟩ && t.regs.r4 == 0x904) = true ∧
    ends (exec (.lss .n4 (.abs16 0x900)) s) (fun t => t.segs.ss.sel == 0x10 && t.regs.r4 == 0x1234) = true ∧
    ends (exec (.popSeg .es) (s.setRegs (regs 0 0 0 0 0x910 0 0 0).regs)) (fun t =>
      t.intr.pending == some ⟨13, .fault, true, true, 0x20⟩ && t.regs.r4 == 0x910 && t.segs == s.segs) = true ∧
    ends (exec (.movToSeg .ds (.reg .n0)) ((s.setRegs (regs 0x1C 0 0 0 0 0 0 0).regs).setSys
        { s.sys with ldtr := ⟨0x18, 0x7F8, 0x2F, 0x082⟩ }))
      (fun t => t.segs.ds == ⟨0x1C, 0x12345678, 0x1234, 0x493⟩) = true := by decide +kernel

theorem witness_SystemStores :
    State.reset.paged = true ∧ (level 0 0 State.reset).pe = true ∧ (level 0 0 State.reset).paged = true ∧
    ∀ i ∈ [Instr.movFromSeg .cs (.reg .n0), .sldt (.reg .n0), .str (.mem (.abs16 0)), .smsw (.reg .n0),
        .sgdt (.abs16 0xFFFE), .sidt (.abs16 0)],
      ends (exec i (level 0 0 State.reset)) (fun t => t.intr.pending == none) = true := by decide +kernel

/-- An indirect jump and call through memory with a call/jump hook installed. -/
def hookedTarget : State :=
  let s := holding [(0x200, [0x00, 0x03])] State.reset
  { s with cfg := { s.cfg with callJmpHook := true } }

/-- Without a hook, through a register, and where the hook is asked; what it answers is free. -/
theorem witness_NearTransfers :
    State.reset.paged = true ∧ State.reset.cfg.callJmpHook = false ∧
    hookedTarget.paged = true ∧ hookedTarget.cfg.callJmpHook = true ∧
    (∀ i ∈ [Instr.jmpRm (.reg .n0), .callRm (.reg .n0), .call (.w 0xFFFF), .ret, .retImm 0xFFFF],
      ends (exec i hookedTarget) (fun t => t.intr.pending == none) = true) := by decide +kernel

/-- In real mode; and in protected mode a selector that is loaded and one that is refused. -/
theorem witness_FarTransfers :
    State.reset.paged = true ∧ State.reset.pe = false ∧ (withGdt [] State.reset).paged = true ∧
    (withGdt [] State.reset).segOutcome State.reset.segs.cs 0x0008 = some ⟨8, 0, 0xFFFFFFFF, 0xC9A⟩ ∧
    (withGdt [] State.reset).segOutcome State.reset.segs.cs 0x0020 = none ∧
    (∀ i ∈ [Instr.jmpFar ⟨.w 0xFFFF, 0xFFFF⟩, .jmpFarMem (.abs16 0), .callFar ⟨.w 0, 0⟩, .callFarMem (.abs16 0), .retf,
        .retfImm 0xFFFF, .iret, .iretd],
      ends (exec i State.reset) (fun t => t.intr.pending == none) = true) ∧
    (∀ i ∈ [Instr.jmpFar ⟨.w 0x100, 8⟩, .callFar ⟨.w 0x100, 8⟩],
      ends (exec i (withGdt [] State.reset)) (fun t => t.segs.cs == ⟨8, 0, 0xFFFFFFFF, 0xC9A⟩ && t.eip == 0x100) = true) ∧
    (∀ i ∈ [Instr.jmpFar ⟨.w 0x100, 0x20⟩, .callFar ⟨.w 0x100, 0x20⟩],
      ends (exec i (withGdt [] State.reset)) (fun t =>
        t.intr.pending == some ⟨13, .fault, true, true, 0x20⟩ && t.regs == State.reset.regs) = true) := by
  decide +kernel

theorem witness_SoftwareInterruptsAndChecks :
    let s : Word → State := fun a => holding [(0x2000, [0xFE, 0xFF, 0x04, 0x00])] (regs a 0 0 0 0 0 0 0)
    (s 0).paged = true ∧ State.reset.flags.ovf = false ∧ (eflags 0x800 State.reset).flags.ovf = true ∧
    ((s 0).eaVal .b16 (.abs16 0x2000) 0).toInt = -2 ∧ ((s 0).eaVal .b16 (.abs16 0x2000) 2).toInt = 4 ∧
    ((s 4).regs.rn .b16 .n0).toInt = 4 ∧ ((s 0xFFFE).regs.rn .b16 .n0).toInt = -2 ∧
    ((s 5).regs.rn .b16 .n0).toInt = 5 ∧ ((s 0xFFFD).regs.rn .b16 .n0).toInt = -3 := by decide +kernel

theorem witness_StringElements :
    State.reset.paged = true ∧ State.reset.pfx.rep = none ∧
    ∀ i ∈ [Instr.movsb, .movsw, .movsd, .cmpsb, .cmpsw, .cmpsd, .scasb, .scasw, .scasd, .lodsb, .lodsw, .lodsd, .stosb,
        .stosw, .stosd], ends (exec i State.reset) (fun t => t.intr.pending == none) = true := by decide +kernel

theorem witness_RepeatRunsCount : ∀ k ∈ [RepKind.rep, .repne], ∀ n ∈ [0, 2],
    let s := (regs 0 (BitVec.ofNat 32 n) 0 0 0 0 0xFFFF 0xFFFE).setPfx { Pfx.clear with rep := some k }
    s.paged = true ∧ s.pfx.rep = some k ∧ (s.indexAt .n1).toNat = n ∧
    (s.pe = false ∨ s.cpl.toNat ≤ s.flags.iopl.toNat) ∧
    ∀ i ∈ [Instr.movsw, .cmpsw, .scasb, .lodsd, .stosd, .insb, .outsw],
      ends (exec i s) (fun t => decide (t.regs.r1.toNat ≤ n)) = true := by decide +kernel

theorem witness_PortInstructions :
    let s := (level 3 3 State.reset).hostSetIoPerm 0xFFFF 0x10000 0x03
    State.reset.paged = true ∧ State.reset.ports.wf = true ∧ State.reset.pe = false ∧ State.reset.pfx.rep = none ∧
    s.paged = true ∧ s.ports.wf = true ∧ s.pe = true ∧ s.cpl.toNat ≤ s.flags.iopl.toNat ∧ s.pfx.rep = none ∧
    ∀ i ∈ [Instr.inp .v (.imm 0xFF), .inp .b .dx, .outp .v .dx, .outp .b (.imm 0), .insb, .insw, .insd, .outsb, .outsw,
        .outsd], ends (exec i s) (fun t => t.intr.pending == none) = true := by decide +kernel

theorem witness_PrivilegedInstructionsTrap :
    (level 1 0 State.reset).pe = true ∧ (level 1 0 State.reset).cpl ≠ 0 ∧
    (level 1 0 State.reset).flags.iopl.toNat < (level 1 0 State.reset).cpl.toNat := by decide

theorem witness_ProtectedModeOnlyInstructions :
    let s : Word → State := fun a => level 0 0 (regs a 0 0 0x0A 0 0 0 0)
    State.reset.paged = true ∧ State.reset.pe = false ∧ (s 0).paged = true ∧ (s 0).pe = true ∧
    ((s 3).rmVal .b16 (.reg .n3)).toNat % 4 < ((s 3).regs.rn .b16 .n0).toNat % 4 ∧
    ((s 2).regs.rn .b16 .n0).toNat % 4 = ((s 2).rmVal .b16 (.reg .n3)).toNat % 4 := by decide +kernel

theorem witness_SystemSegmentLoads :
    let s : Nat → State := fun sel => withGdt [] (regs (BitVec.ofNat 32 sel) 0 0 0 0 0 0 0)
    (∀ sel ∈ [0x03, 0x0C, 0x18, 0x20, 0x28, 0x30, 0x38, 0x40], (s sel).paged = true ∧ (s sel).pe = true ∧
      (s sel).cpl = 0 ∧ ((s sel).rmVal .b16 (.reg .n0)).toNat = sel) ∧
    (0x03 : BitVec 16).toNat < 4 ∧ (0x0C : BitVec 16).getLsbD 2 = true ∧
    (s 0x40).sys.gdtr.limit.toNat < 0x40 / 8 * 8 + 7 ∧ 0x38 / 8 * 8 + 7 = (s 0x38).sys.gdtr.limit.toNat ∧
    ((span 8 (0x838 : Word)).any fun b => !(s 0x38).mem.permitted .read b) = true ∧
    holdsAll (s 0x18).mem 0x818 [0xFF, 0x00, 0x00, 0x10, 0x00, 0x82, 0x00, 0x00] = true ∧
    holdsAll (s 0x20).mem 0x820 [0xFF, 0xFF, 0x00, 0x00, 0x00, 0x12, 0x00, 0x00] = true ∧
    holdsAll (s 0x28).mem 0x828 [0x67, 0x00, 0x00, 0x20, 0x00, 0x89, 0x00, 0x00] = true ∧
    holdsAll (s 0x30).mem 0x830 [0x2B, 0x00, 0x00, 0x30, 0x00, 0x81, 0x00, 0x00] = true ∧
    (0x82 : Byte).getLsbD 7 = true ∧ (0x82 : Byte).toNat % 32 = 0x2 ∧ (0x12 : Byte).getLsbD 7 = false ∧
    (0x89 : Byte).toNat % 32 = 0x9 ∧ (0x81 : Byte).toNat % 32 = 0x1 := by
  decide +kernel

theorem witness_SystemRegisterInstructions :
    let s : BitVec 2 → State := fun p => (regs 0 0xFFFFFFFF 0 0 0 0 0 0).setSys
      { State.reset.sys with msrPerm := if p = 0 then [] else [(0xFFFFFFFF, p)] }
    (∀ n ∈ [0, 1, 2, 3], let p : BitVec 2 := BitVec.ofNat 2 n
      (s p).paged = true ∧ (s p).sys.wf = true ∧ (s p).pe = false) ∧
    (level 0 0 State.reset).cpl = 0 ∧
    (Sparse.get 0 (s 1).sys.msrPerm (s 1).regs.r1.toNat).getLsbD 0 = true ∧
    (Sparse.get 0 (s 2).sys.msrPerm (s 2).regs.r1.toNat).getLsbD 0 = false ∧
    (Sparse.get 0 (s 2).sys.msrPerm (s 2).regs.r1.toNat).getLsbD 1 = true ∧
    (Sparse.get 0 (s 1).sys.msrPerm (s 1).regs.r1.toNat).getLsbD 1 = false ∧
    ∀ i ∈ [Instr.lgdt (.abs16 0), .lidt (.abs16 0), .movFromCr .n0 .n7, .movToCr .n7 .n0, .movFromDr .n0 .n7,
        .movToDr .n7 .n0, .lmsw (.reg .n0), .clts, .rdmsr, .wrmsr],
      ends (exec i (s 3)) (fun t => t.intr.pending == none) = true := by decide +kernel

end Sys2Proof.Tests
end

/-! PROOFS. Every step keeps the canonical form of memory, ports and model-specific registers (10_state R58, R63, R67):
one rule per state operation, then one per shared meaning, per instruction, per fetch and per cycle. -/

namespace Sys2Proof.Machine

/-! ### Ports and model-specific registers -/

section Ports

variable {q : Ports}

theorem Ports.wf_iff :
    q.wf = true ↔ Sparse.wfFrom 0 (2 ^ 16) 0 q.perm = true ∧ Sparse.wfFrom 0 (2 ^ 16) 0 q.rd = true ∧
      Sparse.wfFrom 0 (2 ^ 16) 0 q.wr = true := by
  simp [Ports.wf, Sparse.wf, and_assoc]

theorem Ports.countRead_wf {p : BitVec 16} (h : q.wf = true) : (q.countRead p).wf = true := by
  obtain ⟨hperm, hrd, hwr⟩ := Ports.wf_iff.1 h
  exact Ports.wf_iff.2 ⟨hperm, Sparse.wfFrom_set p.isLt (Nat.zero_le _) hrd, hwr⟩

theorem Ports.countWrite_wf {p : BitVec 16} (h : q.wf = true) : (q.countWrite p).wf = true := by
  obtain ⟨hperm, hrd, hwr⟩ := Ports.wf_iff.1 h
  exact Ports.wf_iff.2 ⟨hperm, hrd, Sparse.wfFrom_set p.isLt (Nat.zero_le _) hwr⟩

theorem Ports.emit_wf {e : PortEvent} (h : q.wf = true) : (q.emit e).wf = true := h

theorem Ports.countReads_wf (ps : List (BitVec 16)) (h : q.wf = true) : (q.countReads ps).wf = true := by
  induction ps generalizing q with
  | nil => exact h
  | cons p ps ih =>
    refine ih ?_
    split
    · exact Ports.countRead_wf h
    · exact h

theorem Ports.countWrites_wf (ps : List (BitVec 16)) (h : q.wf = true) : (q.countWrites ps).wf = true := by
  induction ps generalizing q with
  | nil => exact h
  | cons p ps ih => exact ih (Ports.countWrite_wf h)

theorem Ports.writeBytes_wf (l : List (BitVec 16 × Byte)) (h : q.wf = true) : (q.writeBytes l).wf = true := by
  induction l generalizing q with
  | nil => exact h
  | cons c r ih =>
    refine ih ?_
    split
    · exact Ports.countWrite_wf (Ports.emit_wf h)
    · exact h

end Ports

theorem Sys.setMsr_wf {y : Sys} {i : Word} {v : BitVec 64} (h : y.wf = true) : (y.setMsr i v).wf = true := by
  simp only [Sys.wf, Sys.setMsr, Sparse.wf, Bool.and_eq_true] at h ⊢
  exact ⟨Sparse.wfFrom_set i.isLt (Nat.zero_le _) h.1, h.2⟩

section Rules

variable {s : State}

/-! ### Updates of the other fields -/

theorem setRegs_wf {v : Bank} (h : s.wf = true) : (s.setRegs v).wf = true := h
theorem setReg_wf {w : Width} {i : Num8} {v : BitVec w.bits} (h : s.wf = true) : (s.setReg w i v).wf = true := h
theorem adjustSp_wf {k : Word} (h : s.wf = true) : (s.adjustSp k).wf = true := h
theorem stepIndex_wf {w : Width} {i : Num8} (h : s.wf = true) : (s.stepIndex w i).wf = true := h
theorem setEip_wf {v : Word} (h : s.wf = true) : (s.setEip v).wf = true := h
theorem setFlags_wf {v : Eflags} (h : s.wf = true) : (s.setFlags v).wf = true := h
theorem setZf_wf {z : Bool} (h : s.wf = true) : (s.setZf z).wf = true := h
theorem setSegs_wf {v : Segs} (h : s.wf = true) : (s.setSegs v).wf = true := h
theorem setIntr_wf {v : Intr} (h : s.wf = true) : (s.setIntr v).wf = true := h
theorem raise_wf {x : Exn} (h : s.wf = true) : (s.raise x).wf = true := h
theorem setPfx_wf {v : Pfx} (h : s.wf = true) : (s.setPfx v).wf = true := h
theorem setCtl_wf {v : Ctl} (h : s.wf = true) : (s.setCtl v).wf = true := h
theorem haltWith_wf {r : BitVec 8} (h : s.wf = true) : (s.haltWith r).wf = true := h
theorem endRunFor_wf {r : BitVec 8} (h : s.wf = true) : (s.endRunFor r).wf = true := h
theorem drew_wf (h : s.wf = true) : s.drew.wf = true := h
theorem deliveryFailed_wf {p : Pending} (h : s.wf = true) : (s.deliveryFailed p).wf = true := h
theorem fetchFailed_wf {r : BitVec 8} (h : s.wf = true) : (s.fetchFailed r).wf = true := h
theorem startInstr_wf (h : s.wf = true) : s.startInstr.wf = true := h

theorem setSys_wf {y : Sys} (h : s.wf = true) (hy : y.wf = true) : (s.setSys y).wf = true := by
  obtain ⟨hmem, hports, -⟩ := State.wf_iff.1 h
  exact State.wf_iff.2 ⟨hmem, hports, hy⟩

theorem sys_wf (h : s.wf = true) : s.sys.wf = true := (State.wf_iff.1 h).2.2

theorem setLdtr_wf {g : SegReg} (h : s.wf = true) : (s.setLdtr g).wf = true := h
theorem setTr_wf {g : SegReg} (h : s.wf = true) : (s.setTr g).wf = true := h
theorem setGdtr_wf {t : TableReg} (h : s.wf = true) : (s.setGdtr t).wf = true := h
theorem setIdtr_wf {t : TableReg} (h : s.wf = true) : (s.setIdtr t).wf = true := h
theorem setCr0_wf {v : Word} (h : s.wf = true) : (s.setCr0 v).wf = true := h

/-! ### Ports -/

theorem portTouch_wf {w : Width} {p : BitVec 16} (h : s.wf = true) : (s.portTouch w p).wf = true := by
  obtain ⟨hmem, hports, hsys⟩ := State.wf_iff.1 h
  exact State.wf_iff.2 ⟨hmem, Ports.countReads_wf _ hports, hsys⟩

theorem portWrite_wf {w : Width} {p : BitVec 16} {v : BitVec w.bits} (h : s.wf = true) :
    (s.portWrite w p v).wf = true := by
  obtain ⟨hmem, hports, hsys⟩ := State.wf_iff.1 h
  refine State.wf_iff.2 ⟨hmem, ?_, hsys⟩
  unfold State.portWrite
  dsimp only
  split
  · exact Ports.countWrites_wf _ (Ports.emit_wf hports)
  · exact Ports.writeBytes_wf _ hports

/-! ### Accesses to memory, whatever answers them -/

theorem segTouch_wf {w : Width} {g : Seg} {off : Word} (h : s.wf = true) : (s.segTouch w g off).wf = true :=
  memTouch_wf h _ _

theorem segStore_wf {w : Width} {g : Seg} {off : Word} {v : BitVec w.bits} (h : s.wf = true) :
    (s.segStore w g off v).wf = true := memStore_wf h _ _ _

theorem stackTouch_wf {w : Width} {k : Nat} (h : s.wf = true) : (s.stackTouch w k).wf = true := segTouch_wf h

theorem placeTouch_wf {w : Width} {p : Place} (h : s.wf = true) : (s.placeTouch w p).wf = true := by
  cases p with
  | reg r => exact h
  | mem g off => exact segTouch_wf h

theorem placeStore_wf {w : Width} {p : Place} {v : BitVec w.bits} (h : s.wf = true) :
    (s.placeStore w p v).wf = true := by
  cases p with
  | reg r => exact setReg_wf h
  | mem g off => exact segStore_wf h

theorem rmTouch_wf {w : Width} {rm : RM} (h : s.wf = true) : (s.rmTouch w rm).wf = true := placeTouch_wf h

theorem rmStore_wf {w : Width} {rm : RM} {v : BitVec w.bits} (h : s.wf = true) : (s.rmStore w rm v).wf = true :=
  placeStore_wf h

theorem eaTouch_wf {w : Width} {m : MemRef} {k : Nat} (h : s.wf = true) : (s.eaTouch w m k).wf = true :=
  placeTouch_wf h

theorem farTouch_wf {m : MemRef} (h : s.wf = true) : (s.farTouch m).wf = true := placeTouch_wf (eaTouch_wf h)

theorem tableTouch_wf {m : MemRef} (h : s.wf = true) : (s.tableTouch m).wf = true := placeTouch_wf (eaTouch_wf h)

theorem descTouch_wf {a : Word} (h : s.wf = true) : (s.descTouch a).wf = true := memTouch_wf (memTouch_wf h _ _) _ _

theorem segLoadTouch_wf {sel : BitVec 16} (h : s.wf = true) : (s.segLoadTouch sel).wf = true := by
  unfold State.segLoadTouch
  split
  · exact h
  · split
    · exact h
    · exact descTouch_wf h

theorem sysLoadTouch_wf {sel : BitVec 16} (h : s.wf = true) : (s.sysLoadTouch sel).wf = true := by
  unfold State.sysLoadTouch
  split
  · exact h
  · split
    · exact h
    · exact descTouch_wf h

theorem targetTouch_wf {v : Byte} (h : s.wf = true) : (s.targetTouch v).wf = true := by
  unfold State.targetTouch
  split
  · exact memTouch_wf (memTouch_wf h _ _) _ _
  · split
    · exact h
    · exact descTouch_wf h

theorem push_wf {w : Width} {v : BitVec w.bits} (h : s.wf = true) : (s.push w v).wf = true := setRegs_wf (segStore_wf h)

theorem popped_wf {w : Width} (h : s.wf = true) : (s.popped w).wf = true := setRegs_wf (segTouch_wf h)

/-! ### Checks, segment loads and repetition: what goes on from there keeps the form too -/

theorem requireCpl0_wf {k : State → State} (h : s.wf = true) (hk : (k s).wf = true) :
    (requireCpl0 s k).wf = true := by
  unfold requireCpl0
  split
  · exact raise_wf h
  · exact hk

theorem checkIopl_wf {k : State → State} (h : s.wf = true) (hk : (k s).wf = true) : (checkIopl s k).wf = true := by
  unfold checkIopl
  split
  · exact raise_wf h
  · exact hk

theorem protectedOnly_wf {k : State → State} (h : s.wf = true) (hk : (k s).wf = true) :
    (protectedOnly s k).wf = true := by
  unfold protectedOnly
  split
  · exact hk
  · exact raise_wf h

theorem loadSeg_wf {g : Seg} {sel : BitVec 16} {k : State → State} (h : s.wf = true)
    (hk : ∀ u : State, u.wf = true → (k u).wf = true) : (loadSeg g sel s k).wf = true := by
  cases hr : s.segLoad (s.segs.get g) sel with
  | some r => rw [loadSeg_some hr]; exact hk _ (setSegs_wf (segLoadTouch_wf h))
  | none => rw [loadSeg_none hr]; exact raise_wf (segLoadTouch_wf h)

theorem repeated_wf {stop : State → Bool} {body : State → State} (h : s.wf = true)
    (hb : ∀ u : State, u.wf = true → (body u).wf = true) : (s.repeated stop body).wf = true := by
  unfold State.repeated
  split
  · exact hb s h
  · exact repLoop_keeps (P := fun u => u.wf = true) (fun u hu _ => setRegs_wf (hb u hu)) _ s h

/-! ### Meanings that several instructions share -/

theorem alu_wf {op : BinOp} {f : AluForm} (h : s.wf = true) : (s.alu op f).wf = true :=
  placeStore_wf (setFlags_wf (rmTouch_wf h))

theorem unary_wf {op : UnOp} {w : Width} {rm : RM} (h : s.wf = true) : (s.unary op w rm).wf = true :=
  placeStore_wf (setFlags_wf (rmTouch_wf h))

theorem multiply_wf {op : (n : Nat) → BitVec n → BitVec n → BitVec n × BitVec n × Bool} {w : Width} {rm : RM}
    (h : s.wf = true) : (s.multiply op w rm).wf = true :=
  drew_wf (setFlags_wf (setRegs_wf (rmTouch_wf h)))

theorem multiplyInto_wf {w : Width} {r : Num8} {rm : RM} {b : BitVec w.bits} (h : s.wf = true) :
    (s.multiplyInto w r rm b).wf = true :=
  drew_wf (setFlags_wf (setReg_wf (rmTouch_wf h)))

theorem divide_wf {w : Width} {qr : Option (BitVec w.bits × BitVec w.bits)} (h : s.wf = true) :
    (s.divide w qr).wf = true := by
  cases qr with
  | none => exact raise_wf h
  | some qr => exact drew_wf (setFlags_wf (setRegs_wf h))

theorem shift_wf {op : ShiftOp} {w : Width} {rm : RM} {c : ShCount} (h : s.wf = true) : (s.shift op w rm c).wf = true :=
  drew_wf (placeStore_wf (setFlags_wf (rmTouch_wf h)))

theorem doubleShift_wf {op : (n : Nat) → BitVec n → BitVec n → Nat → Eflags → Nat → BitVec n × Eflags} {rm : RM}
    {r : Num8} {c : DShCount} (h : s.wf = true) : (s.doubleShift op rm r c).wf = true :=
  drew_wf (placeStore_wf (setFlags_wf (rmTouch_wf h)))

theorem bitModify_wf {op : (n : Nat) → BitVec n → BitVec n → BitVec n} {rm : RM} {i : BitIdx} (h : s.wf = true) :
    (s.bitModify op rm i).wf = true :=
  drew_wf (placeStore_wf (setFlags_wf (placeTouch_wf h)))

theorem bitScan_wf {scan : (n : Nat) → BitVec n → Nat} {r : Num8} {rm : RM} (h : s.wf = true) :
    (s.bitScan scan r rm).wf = true :=
  drew_wf (setFlags_wf (setReg_wf (rmTouch_wf h)))

theorem storeWord_wf {rm : RM} {v : BitVec 16} (h : s.wf = true) : (s.storeWord rm v).wf = true := by
  cases rm with
  | reg r => exact setReg_wf h
  | mem m => exact segStore_wf h

theorem storeTable_wf {table : Sys → TableReg} {m : MemRef} (h : s.wf = true) : (s.storeTable table m).wf = true :=
  placeStore_wf (placeStore_wf h)

theorem loadFar_wf {g : Seg} {r : Num8} {m : MemRef} (h : s.wf = true) : (s.loadFar g r m).wf = true :=
  loadSeg_wf (farTouch_wf h) fun _ hu => setReg_wf hu

theorem popReg_wf {w : Width} {r : Num8} (h : s.wf = true) : (s.popReg w r).wf = true := setReg_wf (popped_wf h)

theorem pushAll_wf {w : Width} (h : s.wf = true) : (s.pushAll w).wf = true :=
  push_wf (push_wf (push_wf (push_wf (push_wf (push_wf (push_wf (push_wf h)))))))

theorem popAll_wf {w : Width} (h : s.wf = true) : (s.popAll w).wf = true :=
  popReg_wf (popReg_wf (popReg_wf (popReg_wf (popped_wf (popReg_wf (popReg_wf (popReg_wf h)))))))

theorem enterLevels_wf {w : Width} (n : Nat) (h : s.wf = true) : (enterLevels w n s).wf = true := by
  induction n generalizing s with
  | zero => exact h
  | succ n ih => exact ih (push_wf (segTouch_wf (setRegs_wf h)))

theorem popFlags_wf {w : Width} (h : s.wf = true) : (s.popFlags w).wf = true := setFlags_wf (popped_wf h)

theorem nearCall_wf {w : Width} {t : Word} (h : s.wf = true) : (s.nearCall w t).wf = true := setEip_wf (push_wf h)

theorem nearReturn_wf {extra : Word} (h : s.wf = true) : (s.nearReturn extra).wf = true :=
  setEip_wf (adjustSp_wf (popped_wf h))

theorem farJump_wf {sel : BitVec 16} {off : Word} (h : s.wf = true) : (s.farJump sel off).wf = true :=
  loadSeg_wf h fun _ hu => setEip_wf hu

theorem farCall_wf {w : Width} {sel : BitVec 16} {off : Word} (h : s.wf = true) : (s.farCall w sel off).wf = true :=
  loadSeg_wf h fun _ hu => setEip_wf (push_wf (push_wf hu))

theorem farReturn_wf {w : Width} {extra : Word} (h : s.wf = true) : (s.farReturn w extra).wf = true :=
  loadSeg_wf (stackTouch_wf (stackTouch_wf h)) fun _ hu => setEip_wf (adjustSp_wf hu)

theorem interruptReturn_wf {w : Width} (h : s.wf = true) : (s.interruptReturn w).wf = true :=
  loadSeg_wf (stackTouch_wf (stackTouch_wf (stackTouch_wf h))) fun _ hu => setFlags_wf (setEip_wf (adjustSp_wf hu))

theorem loopOn_wf {cond : Bool} {rel : BitVec 8} (h : s.wf = true) : (s.loopOn cond rel).wf = true :=
  setEip_wf (setRegs_wf h)

/-- A call/jump hook leaves the form, as host code does, and so does the transfer it does not take over
(43_control_transfer R504). -/
theorem hooked_wf {k : CallKind} {rm : RM} {u : State} (h : s.wf = true) (hu : u.wf = true) :
    ((s.hooked k rm).getD u).wf = true := by
  cases rm with
  | reg r => exact hu
  | mem m =>
    unfold State.hooked
    dsimp only
    split
    · cases Config.callJmpHook k (s.nearTarget (.mem m)) (s.rmTouch s.osz.width (.mem m)) with
      | none => exact hu
      | some t => exact resume_wf t (rmTouch_wf h)
    · exact hu
/-! ### One element of a string instruction -/

theorem movsBody_wf {w : Width} (h : s.wf = true) : (movsBody w s).wf = true :=
  stepIndex_wf (stepIndex_wf (segStore_wf (segTouch_wf h)))

theorem cmpsBody_wf {w : Width} (h : s.wf = true) : (cmpsBody w s).wf = true :=
  stepIndex_wf (stepIndex_wf (setFlags_wf (segTouch_wf (segTouch_wf h))))

theorem scasBody_wf {w : Width} (h : s.wf = true) : (scasBody w s).wf = true :=
  stepIndex_wf (setFlags_wf (segTouch_wf h))

theorem lodsBody_wf {w : Width} (h : s.wf = true) : (lodsBody w s).wf = true :=
  stepIndex_wf (setReg_wf (segTouch_wf h))

theorem stosBody_wf {w : Width} (h : s.wf = true) : (stosBody w s).wf = true := stepIndex_wf (segStore_wf h)

theorem insBody_wf {w : Width} (h : s.wf = true) : (insBody w s).wf = true :=
  stepIndex_wf (segStore_wf (portTouch_wf h))

theorem outsBody_wf {w : Width} (h : s.wf = true) : (outsBody w s).wf = true :=
  stepIndex_wf (portWrite_wf (segTouch_wf h))

end Rules

/-! ### Instructions -/

/-- The next state that is answered, if one is, is in canonical form. -/
def outWf : Out → Prop
  | .next t => t.wf = true
  | .fault _ => True
  | .refused _ => True

section Instructions

variable {s : State}

theorem execAam_wf {ib : Byte} (h : s.wf = true) : outWf (execAam ib s) := by
  unfold execAam
  split
  · exact raise_wf h
  · exact drew_wf (setFlags_wf (setReg_wf (setReg_wf h)))

theorem execImul3_wf {r : Num8} {rm : RM} {i : ImulImm} (h : s.wf = true) : outWf (execImul3 r rm i s) := by
  cases i with
  | iz z => exact multiplyInto_wf h
  | ib v => exact multiplyInto_wf h

theorem execMov_wf {f : MovForm} (h : s.wf = true) : outWf (execMov f s) := by
  cases f with
  | rmR w rm r => exact rmStore_wf h
  | rRm w r rm => exact setReg_wf (rmTouch_wf h)
  | ebIb rm v => exact rmStore_wf h
  | evIz rm z => exact rmStore_wf h
  | rIb r v => exact setReg_wf h
  | rIz r z => exact setReg_wf h
  | accOff w o => exact setReg_wf (segTouch_wf h)
  | offAcc w o => exact segStore_wf h

theorem execXchg_wf {f : XchgForm} (h : s.wf = true) : outWf (execXchg f s) := by
  cases f with
  | rmR w rm r => exact setReg_wf (placeStore_wf (rmTouch_wf h))
  | acc r => exact setReg_wf (setReg_wf h)

theorem execPush_wf {f : PushForm} (h : s.wf = true) : outWf (execPush f s) := by
  cases f with
  | seg g => exact push_wf h
  | reg r => exact push_wf h
  | iz z => exact push_wf h
  | ib v => exact push_wf h
  | ev rm => exact push_wf (rmTouch_wf h)

theorem execPop_wf {f : PopForm} (h : s.wf = true) : outWf (execPop f s) := by
  cases f with
  | reg r => exact popReg_wf h
  | ev rm => exact placeStore_wf (popped_wf h)

theorem execEnter_wf {size : BitVec 16} {level : Byte} (h : s.wf = true) : outWf (execEnter size level s) := by
  refine adjustSp_wf (setReg_wf ?_)
  split
  · exact push_wf h
  · exact push_wf (enterLevels_wf _ (push_wf h))

theorem execInto_wf (h : s.wf = true) : outWf (execInto s) := by
  show (if s.flags.ovf then s.raise (.sw 4) else s).wf = true
  split
  · exact raise_wf h
  · exact h

theorem execBound_wf {r : Num8} {m : MemRef} (h : s.wf = true) : outWf (execBound r m s) := by
  have h2 := placeTouch_wf (w := s.osz.width) (p := s.eaPlace m s.osz.width.bytes)
    (eaTouch_wf (w := s.osz.width) (m := m) (k := 0) h)
  unfold execBound
  dsimp only [outWf]
  split
  · exact raise_wf h2
  · exact h2

theorem execArpl_wf {rm : RM} {r : Num8} (h : s.wf = true) : outWf (execArpl rm r s) := by
  refine protectedOnly_wf h ?_
  dsimp only
  split
  · exact setZf_wf (placeStore_wf (rmTouch_wf h))
  · exact setZf_wf (rmTouch_wf h)

theorem execLldt_wf {rm : RM} (h : s.wf = true) : outWf (execLldt rm s) := by
  refine protectedOnly_wf h (requireCpl0_wf h ?_)
  dsimp only
  split
  · exact setLdtr_wf (rmTouch_wf h)
  · split
    · exact setLdtr_wf (sysLoadTouch_wf (rmTouch_wf h))
    · exact raise_wf (sysLoadTouch_wf (rmTouch_wf h))

theorem execLtr_wf {rm : RM} (h : s.wf = true) : outWf (execLtr rm s) := by
  refine protectedOnly_wf h (requireCpl0_wf h ?_)
  dsimp only
  split
  · exact raise_wf (rmTouch_wf h)
  · split
    · exact setTr_wf (sysLoadTouch_wf (rmTouch_wf h))
    · exact raise_wf (sysLoadTouch_wf (rmTouch_wf h))

theorem execSmsw_wf {rm : RM} (h : s.wf = true) : outWf (execSmsw rm s) := by
  cases rm with
  | reg r => exact setReg_wf h
  | mem m => exact segStore_wf h

theorem execRdmsr_wf (h : s.wf = true) : outWf (execRdmsr s) := by
  refine requireCpl0_wf h ?_
  dsimp only
  split
  · exact setReg_wf (setReg_wf h)
  · exact raise_wf h

theorem execWrmsr_wf (h : s.wf = true) : outWf (execWrmsr s) := by
  refine requireCpl0_wf h ?_
  dsimp only
  split
  · exact setSys_wf h (Sys.setMsr_wf (sys_wf h))
  · exact raise_wf h

/-- Every instruction keeps the canonical form. -/
theorem exec_wf (h : s.wf = true) : ∀ i, outWf (exec i s)
  | .pfxEs | .pfxCs | .pfxSs | .pfxDs | .pfxFs | .pfxGs => setPfx_wf h
  | .pfxOpSize | .pfxAdSize | .pfxLock | .pfxRepne | .pfxRep => setPfx_wf h
  | .add _ | .adc _ | .sbb _ | .sub _ => alu_wf h
  | .or _ | .and _ | .xor _ => drew_wf (alu_wf h)
  | .cmp _ => setFlags_wf (rmTouch_wf h)
  | .test _ => drew_wf (setFlags_wf (rmTouch_wf h))
  | .inc _ | .dec _ | .not _ _ | .neg _ _ => unary_wf h
  | .mul _ _ | .imul _ _ => multiply_wf h
  | .imul2 _ _ => multiplyInto_wf h
  | .imul3 _ _ _ => execImul3_wf h
  | .div _ _ | .idiv _ _ => divide_wf (rmTouch_wf h)
  | .rol _ _ _ | .ror _ _ _ | .rcl _ _ _ | .rcr _ _ _ | .shl _ _ _ | .shr _ _ _ | .sar _ _ _ => shift_wf h
  | .shld _ _ _ | .shrd _ _ _ => doubleShift_wf h
  | .bt _ _ => drew_wf (setFlags_wf (placeTouch_wf h))
  | .bts _ _ | .btr _ _ | .btc _ _ => bitModify_wf h
  | .bsf _ _ | .bsr _ _ => bitScan_wf h
  | .daa | .das | .aaa | .aas => drew_wf (setFlags_wf (setReg_wf h))
  | .aam _ => execAam_wf h
  | .aad _ => drew_wf (setFlags_wf (setReg_wf (setReg_wf h)))
  | .clc | .stc | .cmc | .cld | .std | .sahf => setFlags_wf h
  | .mov _ => execMov_wf h
  | .movFromSeg _ _ => storeWord_wf h
  | .movToSeg _ _ => loadSeg_wf (rmTouch_wf h) fun _ hu => hu
  | .movFromCr _ _ | .movFromDr _ _ => requireCpl0_wf h (drew_wf (setFlags_wf (setReg_wf h)))
  | .movToCr _ _ | .movToDr _ _ => requireCpl0_wf h (drew_wf (setFlags_wf (setSys_wf h (sys_wf h))))
  | .movzx _ _ _ | .movsx _ _ _ => setReg_wf (rmTouch_wf h)
  | .lea _ _ | .cbw | .cwde | .cwd | .cdq | .lahf => setReg_wf h
  | .push _ => execPush_wf h
  | .pop _ => execPop_wf h
  | .popSeg _ => loadSeg_wf (segTouch_wf h) fun _ hu => adjustSp_wf hu
  | .pusha | .pushad => pushAll_wf h
  | .popa | .popad => popAll_wf h
  | .enter _ _ => execEnter_wf h
  | .leave => popReg_wf (setRegs_wf h)
  | .xchg _ => execXchg_wf h
  | .nop | .wait => h
  | .xlat => setReg_wf (segTouch_wf h)
  | .lds _ _ | .les _ _ | .lfs _ _ | .lgs _ _ | .lss _ _ => loadFar_wf h
  | .pushf | .pushfd => push_wf h
  | .popf | .popfd => popFlags_wf h
  | .seto _ | .setno _ | .setb _ | .setnb _ | .setz _ | .setnz _ | .setbe _ | .setnbe _ => rmStore_wf h
  | .sets _ | .setns _ | .setp _ | .setnp _ | .setl _ | .setnl _ | .setle _ | .setnle _ => rmStore_wf h
  | .jo _ | .jno _ | .jb _ | .jnb _ | .jz _ | .jnz _ | .jbe _ | .jnbe _ => setEip_wf h
  | .js _ | .jns _ | .jp _ | .jnp _ | .jl _ | .jnl _ | .jle _ | .jnle _ => setEip_wf h
  | .jmp _ | .jcxz _ => setEip_wf h
  | .jmpRm _ => hooked_wf h (setEip_wf (rmTouch_wf h))
  | .jmpFar _ => farJump_wf h
  | .jmpFarMem _ => farJump_wf (farTouch_wf h)
  | .call _ => nearCall_wf h
  | .callRm _ => hooked_wf h (nearCall_wf (rmTouch_wf h))
  | .callFar _ => farCall_wf h
  | .callFarMem _ => farCall_wf (farTouch_wf h)
  | .ret | .retImm _ => nearReturn_wf h
  | .retf | .retfImm _ => farReturn_wf h
  | .iret | .iretd => interruptReturn_wf h
  | .loop _ | .loope _ | .loopne _ => loopOn_wf h
  | .int _ | .int3 | .ud _ => raise_wf h
  | .into => execInto_wf h
  | .bound _ _ => execBound_wf h
  | .movsb | .movsw | .movsd => repeated_wf h fun _ => movsBody_wf
  | .cmpsb | .cmpsw | .cmpsd => repeated_wf h fun _ => cmpsBody_wf
  | .scasb | .scasw | .scasd => repeated_wf h fun _ => scasBody_wf
  | .lodsb | .lodsw | .lodsd => repeated_wf h fun _ => lodsBody_wf
  | .stosb | .stosw | .stosd => repeated_wf h fun _ => stosBody_wf
  | .insb | .insw | .insd => checkIopl_wf h (repeated_wf h fun _ => insBody_wf)
  | .outsb | .outsw | .outsd => checkIopl_wf h (repeated_wf h fun _ => outsBody_wf)
  | .inp _ _ => checkIopl_wf h (setReg_wf (portTouch_wf h))
  | .outp _ _ => checkIopl_wf h (portWrite_wf h)
  | .hlt => requireCpl0_wf h (haltWith_wf h)
  | .cli | .sti => checkIopl_wf h (setFlags_wf h)
  | .arpl _ _ => execArpl_wf h
  | .sldt _ | .str _ => protectedOnly_wf h (storeWord_wf h)
  | .lldt _ => execLldt_wf h
  | .ltr _ => execLtr_wf h
  | .sgdt _ | .sidt _ => storeTable_wf h
  | .lgdt _ => requireCpl0_wf h (setGdtr_wf (tableTouch_wf h))
  | .lidt _ => requireCpl0_wf h (setIdtr_wf (tableTouch_wf h))
  | .smsw _ => execSmsw_wf h
  | .lmsw _ => requireCpl0_wf h (setCr0_wf (rmTouch_wf h))
  | .clts => requireCpl0_wf h (setCr0_wf h)
  | .rdmsr => execRdmsr_wf h
  | .wrmsr => execWrmsr_wf h

end Instructions

/-! ### Fetching -/

/-- The state that fetching bytes leaves, if it leaves one, is in canonical form. -/
def Fetched.wf : Fetched → Prop
  | .done s => s.wf = true
  | .stopped s => s.wf = true
  | .refused _ => True

/-- The state that fetching an item leaves, if it leaves one, is in canonical form. -/
def Item.wf : Item → Prop
  | .instr _ s => s.wf = true
  | .stopped s => s.wf = true
  | .refused _ => True

section Cycle

variable {s : State}

theorem fetchBytes_wf (n : Nat) (h : s.wf = true) : (s.fetchBytes n).wf := by
  induction n generalizing s with
  | zero => exact h
  | succ n ih =>
    have h1 := fetchTouch_wf h s.fetchLin
    unfold State.fetchBytes
    dsimp only
    split
    · exact fetchFailed_wf h1
    · split
      · trivial
      · split
        · trivial
        · exact ih (setEip_wf h1)

theorem fetchItem_wf (h : s.wf = true) : s.fetchItem.wf := by
  unfold State.fetchItem
  dsimp only
  cases decode s.decMode (s.codeBytes maxItemBytes) with
  | error e => trivial
  | ok r =>
    have hf := fetchBytes_wf ((s.codeBytes maxItemBytes).length - r.2.length) h
    dsimp only
    generalize s.fetchBytes ((s.codeBytes maxItemBytes).length - r.2.length) = f at hf ⊢
    cases f with
    | done s1 => exact hf
    | stopped s1 => exact hf
    | refused r => trivial

/-! ### Delivery and the cycle -/

theorem pushFrame_wf {p : Pending} {rcs : BitVec 16} {rip : Word} (h : s.wf = true) :
    (s.pushFrame p rcs rip).wf = true := by
  unfold State.pushFrame
  dsimp only
  split
  · exact push_wf (push_wf (push_wf (push_wf h)))
  · exact push_wf (push_wf (push_wf h))

theorem enterHandler_wf {p : Pending} {rcs tsel : BitVec 16} {rip toff : Word} (h : s.wf = true) :
    (s.enterHandler p rcs rip tsel toff).wf = true := by
  have hread := segLoadTouch_wf (sel := tsel)
    (setFlags_wf (v := (s.pushFrame p rcs rip).flags.masked) (pushFrame_wf (p := p) (rcs := rcs) (rip := rip) h))
  unfold State.enterHandler
  dsimp only
  split
  · exact setEip_wf (setSegs_wf hread)
  · exact deliveryFailed_wf hread

theorem vectorTo_wf {p : Pending} {ra : BitVec 16 × Word} (h : s.wf = true) : (s.vectorTo p ra).wf = true := by
  unfold State.vectorTo
  dsimp only
  split
  · exact deliveryFailed_wf (targetTouch_wf h)
  · exact enterHandler_wf (targetTouch_wf h)

theorem hookReturn_wf {p : Pending} {u : State} (hu : u.wf = true) : (s.hookReturn p u).wf = true :=
  setEip_wf (setSegs_wf hu)

theorem takeException_wf {p : Pending} (h : s.wf = true) : (s.takeException p).wf = true := by
  cases hi : s.cfg.intrHook with
  | false => rw [takeException_plain hi]; exact vectorTo_wf (setIntr_wf h)
  | true =>
    rw [takeException_hook hi]
    dsimp only
    have hu := fun t => resume_wf t (setIntr_wf (v := { s.intr with pending := none }) h)
    split
    · split
      · exact hu _
      · exact hookReturn_wf (hu _)
    · exact vectorTo_wf (hu _)

theorem deliver_wf (h : s.wf = true) : s.deliver.wf = true := by
  cases hp : s.intr.pending with
  | none => rw [deliver_empty hp]; exact h
  | some p => rw [deliver_full hp]; exact takeException_wf h

theorem askCheck_wf (h : s.wf = true) : s.askCheck.2.wf = true := by
  rcases askCheck_cases s with hs | ⟨t, hs⟩ <;> rw [hs]
  · exact h
  · exact resume_wf t h

theorem runItems_wf (n : Nat) (h : s.wf = true) : outWf (runItems n s) := by
  induction n generalizing s with
  | zero => trivial
  | succ n ih =>
    have hf := fetchItem_wf h
    unfold runItems
    cases hs : s.fetchItem with
    | stopped s1 => rw [hs] at hf; exact hf
    | refused r => trivial
    | instr i s1 =>
      rw [hs] at hf
      have he := exec_wf hf i
      dsimp only
      cases hx : exec i s1 with
      | next s2 =>
        rw [hx] at he
        split
        · exact ih he
        · exact setCtl_wf he
      | fault r => split <;> trivial
      | refused r => split <;> trivial

theorem afterDelivery_wf (h : s.wf = true) : outWf s.afterDelivery := by
  unfold State.afterDelivery
  split
  · exact setCtl_wf h
  · split
    · exact drew_wf (endRunFor_wf h)
    · dsimp only
      split
      · exact drew_wf (endRunFor_wf (askCheck_wf h))
      · exact runItems_wf _ (startInstr_wf (drew_wf (askCheck_wf h)))

theorem step_wf (h : s.wf = true) : outWf (step s) := by
  unfold step State.cycle
  split
  · exact afterDelivery_wf (deliver_wf h)
  · trivial

end Cycle

/-- Settles O7: every operation of a step keeps the form, and host code leaves a state in canonical form or none. -/
theorem stepKeepsCanonicalForm : Obligations.StepKeepsCanonicalForm := by
  unfold Obligations.StepKeepsCanonicalForm
  intro s t hs ht
  have h := step_wf hs
  rw [ht] at h
  exact h

end Sys2Proof.Machine

/-! PROOFS. The aliasing law of the register file, bit by bit (10_state R31 to R34): what a write through a name leaves
in each cell, and what a read through a name returns. -/

namespace Sys2Proof

/-- The lowest bit of its cell that an 8-bit register number names (10_state R33). -/
def Num8.low8 (i : Num8) : Nat := if i.high8 then 8 else 0

theorem Num8.ofBits_and_three (i : Num8) : Num8.ofBits (i.bits &&& 3) = i.cell8 := by cases i <;> rfl

theorem Num8.low8_of_bits (i : Num8) : (if i.bits.getLsbD 2 then 8 else 0) = i.low8 := by cases i <;> rfl

end Sys2Proof

namespace Sys2Proof.Machine

section Bits

variable {c : Word} {k : Nat}

/-- A cell with its low byte replaced. -/
theorem getLsbD_replaceLow8 (v : Byte) (hk : k < 32) :
    (c.extractLsb' 8 24 ++ v).getLsbD k = if k < 8 then v.getLsbD k else c.getLsbD k := by
  rw [BitVec.getLsbD_append]
  by_cases h : k < 8
  · simp [h]
  · simp [h, show k - 8 < 24 by omega, show 8 + (k - 8) = k by omega]

/-- A cell with its second byte replaced. -/
theorem getLsbD_replaceHigh8 (v : Byte) (hk : k < 32) :
    (c.extractLsb' 16 16 ++ v ++ c.extractLsb' 0 8).getLsbD k =
      if 8 ≤ k ∧ k < 16 then v.getLsbD (k - 8) else c.getLsbD k := by
  rw [BitVec.getLsbD_append, BitVec.getLsbD_append]
  by_cases h8 : k < 8
  · simp [h8, show ¬8 ≤ k by omega]
  · by_cases h16 : k < 16
    · simp [h8, h16, show 8 ≤ k by omega, show k - 8 < 8 by omega]
    · simp [h8, h16, show ¬k - 8 < 8 by omega, show k - 8 - 8 < 16 by omega, show 16 + (k - 8 - 8) = k by omega]

/-- A cell with its low half replaced. -/
theorem getLsbD_replaceLow16 (v : BitVec 16) (hk : k < 32) :
    (c.extractLsb' 16 16 ++ v).getLsbD k = if k < 16 then v.getLsbD k else c.getLsbD k := by
  rw [BitVec.getLsbD_append]
  by_cases h : k < 16
  · simp [h]
  · simp [h, show k - 16 < 16 by omega, show 16 + (k - 16) = k by omega]

end Bits

section Aliases

variable (b : Bank) (i j : Num8) {k : Nat}

theorem getLsbD_get_setR8 (v : Byte) (hk : k < 32) :
    ((b.setR8 i v).get j).getLsbD k =
      if j = i.cell8 ∧ i.low8 ≤ k ∧ k < i.low8 + 8 then v.getLsbD (k - i.low8)
      else (b.get j).getLsbD k := by
  simp only [Bank.setR8, Bank.get_set, Num8.low8]
  by_cases hj : j = i.cell8
  · subst hj
    by_cases hh : i.high8
    · simp [hh, getLsbD_replaceHigh8 v hk]
    · simp [hh, getLsbD_replaceLow8 v hk]
  · simp [hj]

theorem getLsbD_get_setR16 (v : BitVec 16) (hk : k < 32) :
    ((b.setR16 i v).get j).getLsbD k = if j = i ∧ k < 16 then v.getLsbD k else (b.get j).getLsbD k := by
  simp only [Bank.setR16, Bank.get_set]
  by_cases hj : j = i
  · subst hj
    simp [getLsbD_replaceLow16 v hk]
  · simp [hj]

theorem getLsbD_r8 : (b.r8 i).getLsbD k = (decide (k < 8) && (b.get i.cell8).getLsbD (i.low8 + k)) := by
  unfold Bank.r8 Num8.low8
  split <;> exact BitVec.getLsbD_extractLsb' ..

theorem getLsbD_r16 : (b.r16 i).getLsbD k = (decide (k < 16) && (b.get i).getLsbD k) := by
  simp [Bank.r16]

end Aliases

/-- Settles O23: width by width, the bits that a write changes and those that a read returns. -/
theorem registerAliases : Obligations.RegisterAliases := by
  unfold Obligations.RegisterAliases
  intro b w i j v k hk
  cases w with
  | b8 =>
    dsimp only
    rw [Num8.ofBits_and_three, Num8.low8_of_bits]
    exact ⟨getLsbD_get_setR8 b i j v hk, getLsbD_r8 b i⟩
  | b16 =>
    constructor
    · simpa [Bank.setRn] using getLsbD_get_setR16 b i j v hk
    · simpa [Bank.rn] using getLsbD_r16 b i
  | b32 =>
    constructor
    · by_cases hj : j = i <;> simp [Bank.setRn, Bank.get_set, hj, hk]
    · simp [Bank.rn, hk]

end Sys2Proof.Machine

/-! PROOFS. What reset leaves, row by row of 10_state R71, and that it is where the invariant of
`Obligations.StepKeepsCanonicalForm` starts. -/

namespace Sys2Proof.Machine

/-- A launch is in canonical form where its initial memory is: every other list is empty. -/
theorem launch_wf (c : Launch) (memIo : Option Nat) {initMem : List Host.Cell}
    (h : Sparse.wf 0 (2 ^ 32) initMem = true) : (State.launch c memIo initMem).wf = true := by
  have hmem : (State.launch c memIo initMem).mem.wf = true := by
    rw [Memory.wf, Bool.and_eq_true]; exact ⟨h, rfl⟩
  exact State.wf_iff.2 ⟨hmem, rfl, rfl⟩

theorem Bank.get_zero (i : Num8) : Bank.zero.get i = 0 := by cases i <;> rfl

/-- Settles O6: each row of R71 is a field of `State.launch`, and every sparse map but the data is empty. -/
theorem resetLeaves : Obligations.ResetLeaves := by
  unfold Obligations.ResetLeaves
  refine ⟨fun c memIo initMem => ?_, rfl, launch_wf _ _ rfl⟩
  have hflags : Eflags.reset.toWord = 0x00000002 := by decide
  have hclear : ∀ f ∈ [false, false, false, false, false, false, false, false, false, false], f = false := by decide
  have hdata : ∀ g, g ≠ Seg.cs → (State.launch c memIo initMem).segs.get g = ⟨0, 0, 0x0000FFFF, 0x093⟩ := by
    intro g hg
    cases g with
    | cs => exact absurd rfl hg
    | es | ss | ds | fs | gs => rfl
  have hreal : (State.launch c memIo initMem).pe = false := by simp [State.pe, State.launch, Bank.zero]
  have hbanks := fun i => And.intro (Bank.get_zero i) (And.intro (Bank.get_zero i) (Bank.get_zero i))
  exact ⟨hflags, rfl, hclear, rfl, rfl, hdata, rfl, rfl, rfl, rfl, hbanks, fun _ => ⟨rfl, rfl⟩, hreal, rfl, rfl, rfl,
    rfl, rfl, rfl, rfl, rfl, rfl, rfl, rfl, rfl, fun _ => rfl, rfl, rfl, rfl, fun _ => ⟨rfl, rfl, rfl⟩, rfl,
    launch_wf c memIo⟩

end Sys2Proof.Machine

/-! PROOFS. What a step keeps, whatever it runs: a predicate that the primitive operations of the machine keep is kept by
every shared operation, by every instruction and by the cycle. The invariants of 20_memory follow from it. -/

namespace Sys2Proof.Machine

/-- The part of the state that memory accesses, segment loads, ports and system registers change, and what is installed:
everything but the registers, EIP, EFLAGS, the pending slot, prefixes, run control and draws. -/
def State.beyondRegs (s : State) : Segs × Sys × Memory × Option Nat × Ports × Launch :=
  (s.segs, s.sys, s.mem, s.io, s.ports, s.cfg)

/-- Whether host code takes part is a matter of what is installed (60_exceptions R690). -/
theorem noHooks_congr {s t : State} (h : t.installed = s.installed) : t.noHooks = s.noHooks := by
  obtain ⟨hcfg, hio⟩ := Prod.mk.inj h
  simp only [State.noHooks, ← Option.not_isSome, hcfg, hio]

theorem beyondRegs_inj {s t : State} (h : t.beyondRegs = s.beyondRegs) :
    t.segs = s.segs ∧ t.sys = s.sys ∧ t.mem = s.mem ∧ t.ports = s.ports ∧ t.installed = s.installed := by
  simp only [State.beyondRegs, Prod.mk.injEq] at h
  obtain ⟨hsegs, hsys, hmem, hio, hports, hcfg⟩ := h
  exact ⟨hsegs, hsys, hmem, hports, by rw [State.installed, hcfg, hio]; rfl⟩

/-- The bytes before an opcode write PFX and nothing else (30_encoding R174, R175). -/
theorem exec_of_isPfx {i : Instr} (hi : i.isPfx = true) (s : State) : ∃ v, exec i s = .next (s.setPfx v) := by
  cases i with
  | pfxEs | pfxCs | pfxSs | pfxDs | pfxFs | pfxGs => exact ⟨_, rfl⟩
  | pfxOpSize | pfxAdSize | pfxLock | pfxRepne | pfxRep => exact ⟨_, rfl⟩
  | _ => simp [Instr.isPfx] at hi

/-- The outcome is no next state, or one of which `Q` holds. -/
def answers (Q : State → Prop) : Out → Prop
  | .next t => Q t
  | .fault _ => True
  | .refused _ => True

theorem answers_next {Q : State → Prop} {o : Out} {t : State} (h : answers Q o) (ho : o = .next t) : Q t := by
  subst ho; exact h

/-- The state that fetching bytes leaves, if it leaves one, satisfies `P`. -/
def Fetched.leaves (P : State → Prop) : Fetched → Prop
  | .done s => P s
  | .stopped s => P s
  | .refused _ => True

/-- The state that fetching an item leaves, if it leaves one, satisfies `P`. -/
def Item.leaves (P : State → Prop) : Item → Prop
  | .instr _ s => P s
  | .stopped s => P s
  | .refused _ => True

/-- `P` is kept by every primitive operation but the write of a system register, which ends an instruction and after
which `Q` holds. Where host code takes part, `P` is kept by what it leaves (60_exceptions R690). -/
structure StepRules (P Q : State → Prop) : Prop where
  /-- An instruction may end anywhere. -/
  done : ∀ {s}, P s → Q s
  /-- `P` is no matter of the registers, EIP, EFLAGS, the pending slot, prefixes, run control and draws. -/
  frame : ∀ {s t : State}, t.beyondRegs = s.beyondRegs → P s → P t
  /-- Reads and fetches of the paged memory. -/
  touchAll : ∀ {s} (k : Access) (as : List Word), s.io = none → k ≠ .write → P s → P (s.setMem (s.mem.touchAll k as))
  /-- Writes to the paged memory. -/
  writeAll : ∀ {s} (l : List (Word × Byte)), s.io = none → P s → P (s.setMem (s.mem.writeAll l))
  portTouch : ∀ {s} (w : Width) (p : BitVec 16), P s → P (s.portTouch w p)
  portWrite : ∀ {s} (w : Width) (p : BitVec 16) (v : BitVec w.bits), P s → P (s.portWrite w p v)
  /-- A segment register is loaded, after the reads that this takes (20_memory R130 to R135). -/
  segLoaded : ∀ {s : State} {g : Seg} {sel : BitVec 16} {r : SegReg}, s.segLoad (s.segs.get g) sel = some r → P s →
    P (s.segLoadTouch sel) → P ((s.segLoadTouch sel).setSegs ((s.segLoadTouch sel).segs.set g r))
  /-- A system register or MSR is written; no instruction writes an MSR permission (10_state R58). -/
  setSys : ∀ {s : State} {y : Sys}, y.msrPerm = s.sys.msrPerm → P s → Q (s.setSys y)
  /-- The instruction is counted (60_exceptions R687). -/
  counted : ∀ {s}, Q s → Q s.counted
  /-- Host code was called in `s` and left `t` (60_exceptions R690). -/
  resume : ∀ {s} (t : State), s.noHooks = false → P s → P (s.resume t)
  /-- A hook handled an interrupt, and the core goes on at the return address (60_exceptions R691). -/
  hookReturn : ∀ {s u : State} (p : Pending), s.noHooks = false → P s → P u → P (s.hookReturn p u)

namespace StepRules

variable {P Q : State → Prop} (r : StepRules P Q) {s : State}

include r

/-! ### Updates of the registers, EIP, EFLAGS, the pending slot, prefixes, run control and draws -/

theorem setRegs {v : Bank} (h : P s) : P (s.setRegs v) := r.frame (by rfl) h
theorem setReg {w : Width} {i : Num8} {v : BitVec w.bits} (h : P s) : P (s.setReg w i v) := r.frame (by rfl) h
theorem adjustSp {k : Word} (h : P s) : P (s.adjustSp k) := r.frame (by rfl) h
theorem stepIndex {w : Width} {i : Num8} (h : P s) : P (s.stepIndex w i) := r.frame (by rfl) h
theorem setEip {v : Word} (h : P s) : P (s.setEip v) := r.frame (by rfl) h
theorem setFlags {v : Eflags} (h : P s) : P (s.setFlags v) := r.frame (by rfl) h
theorem setZf {z : Bool} (h : P s) : P (s.setZf z) := r.frame (by rfl) h
theorem setIntr {v : Intr} (h : P s) : P (s.setIntr v) := r.frame (by rfl) h
theorem raise {x : Exn} (h : P s) : P (s.raise x) := r.frame (by rfl) h
theorem setPfx {v : Pfx} (h : P s) : P (s.setPfx v) := r.frame (by rfl) h
theorem setCtl {v : Ctl} (h : P s) : P (s.setCtl v) := r.frame (by rfl) h
theorem haltWith {x : BitVec 8} (h : P s) : P (s.haltWith x) := r.frame (by rfl) h
theorem endRunFor {x : BitVec 8} (h : P s) : P (s.endRunFor x) := r.frame (by rfl) h
theorem drew (h : P s) : P s.drew := r.frame (by rfl) h
theorem deliveryFailed {p : Pending} (h : P s) : P (s.deliveryFailed p) := r.frame (by rfl) h
theorem fetchFailed {x : BitVec 8} (h : P s) : P (s.fetchFailed x) := r.frame (by rfl) h
theorem startInstr (h : P s) : P s.startInstr := r.frame (by rfl) h

/-! ### Accesses to memory: the paged memory answers, or a handler, which is host code -/

theorem asked {k : Access} {w : Width} {a v : Word} {n : Nat} (hio : s.io = some n) (h : P s) : P (s.asked k w a v) :=
  r.resume _ (by simp [State.noHooks, hio]) h

theorem memTouch {w : Width} {a : Word} (h : P s) : P (s.memTouch w a) := by
  unfold State.memTouch
  split
  · exact r.touchAll .read _ ‹_› (by decide) h
  · exact r.asked ‹_› h

theorem memStore {w : Width} {a : Word} {v : BitVec w.bits} (h : P s) : P (s.memStore w a v) := by
  unfold State.memStore
  split
  · exact r.writeAll _ ‹_› h
  · exact r.asked ‹_› h

theorem fetchTouch {a : Word} (h : P s) : P (s.fetchTouch a) := by
  unfold State.fetchTouch
  split
  · exact r.touchAll .fetch [a] ‹_› (by decide) h
  · exact r.asked ‹_› h

theorem segTouch {w : Width} {g : Seg} {off : Word} (h : P s) : P (s.segTouch w g off) := r.memTouch h

theorem segStore {w : Width} {g : Seg} {off : Word} {v : BitVec w.bits} (h : P s) : P (s.segStore w g off v) :=
  r.memStore h

theorem stackTouch {w : Width} {k : Nat} (h : P s) : P (s.stackTouch w k) := r.segTouch h

theorem placeTouch {w : Width} {p : Place} (h : P s) : P (s.placeTouch w p) := by
  cases p with
  | reg i => exact h
  | mem g off => exact r.segTouch h

theorem placeStore {w : Width} {p : Place} {v : BitVec w.bits} (h : P s) : P (s.placeStore w p v) := by
  cases p with
  | reg i => exact r.setReg h
  | mem g off => exact r.segStore h

theorem rmTouch {w : Width} {rm : RM} (h : P s) : P (s.rmTouch w rm) := r.placeTouch h

theorem rmStore {w : Width} {rm : RM} {v : BitVec w.bits} (h : P s) : P (s.rmStore w rm v) := r.placeStore h

theorem eaTouch {w : Width} {m : MemRef} {k : Nat} (h : P s) : P (s.eaTouch w m k) := r.placeTouch h

theorem farTouch {m : MemRef} (h : P s) : P (s.farTouch m) := r.placeTouch (r.eaTouch h)

theorem tableTouch {m : MemRef} (h : P s) : P (s.tableTouch m) := r.placeTouch (r.eaTouch h)

theorem descTouch {a : Word} (h : P s) : P (s.descTouch a) := r.memTouch (r.memTouch h)

theorem segLoadTouch {sel : BitVec 16} (h : P s) : P (s.segLoadTouch sel) := by
  unfold State.segLoadTouch
  split
  · exact h
  · split
    · exact h
    · exact r.descTouch h

theorem sysLoadTouch {sel : BitVec 16} (h : P s) : P (s.sysLoadTouch sel) := by
  unfold State.sysLoadTouch
  split
  · exact h
  · split
    · exact h
    · exact r.descTouch h

theorem targetTouch {v : Byte} (h : P s) : P (s.targetTouch v) := by
  unfold State.targetTouch
  split
  · exact r.memTouch (r.memTouch h)
  · split
    · exact h
    · exact r.descTouch h

theorem push {w : Width} {v : BitVec w.bits} (h : P s) : P (s.push w v) := r.setRegs (r.segStore h)

theorem popped {w : Width} (h : P s) : P (s.popped w) := r.setRegs (r.segTouch h)

/-! ### Checks, segment loads and repetition -/

theorem requireCpl0 {k : State → State} (h : P s) (hk : Q (k s)) : Q (requireCpl0 s k) := by
  unfold Sys2Proof.Machine.requireCpl0
  split
  · exact r.done (r.raise h)
  · exact hk

theorem checkIopl {k : State → State} (h : P s) (hk : P (k s)) : P (checkIopl s k) := by
  unfold Sys2Proof.Machine.checkIopl
  split
  · exact r.raise h
  · exact hk

theorem protectedOnly {k : State → State} (h : P s) (hk : Q (k s)) : Q (protectedOnly s k) := by
  unfold Sys2Proof.Machine.protectedOnly
  split
  · exact hk
  · exact r.done (r.raise h)

theorem loadSeg {g : Seg} {sel : BitVec 16} {k : State → State} (h : P s) (hk : ∀ u : State, P u → P (k u)) :
    P (loadSeg g sel s k) := by
  cases hr : s.segLoad (s.segs.get g) sel with
  | some v => rw [loadSeg_some hr]; exact hk _ (r.segLoaded hr h (r.segLoadTouch h))
  | none => rw [loadSeg_none hr]; exact r.raise (r.segLoadTouch h)

theorem repeated {stop : State → Bool} {body : State → State} (h : P s) (hb : ∀ u : State, P u → P (body u)) :
    P (s.repeated stop body) := by
  unfold State.repeated
  split
  · exact hb s h
  · exact repLoop_keeps (P := P) (fun u hu _ => r.setRegs (hb u hu)) _ s h

/-! ### Meanings that several instructions share -/

theorem alu {op : BinOp} {f : AluForm} (h : P s) : P (s.alu op f) := r.placeStore (r.setFlags (r.rmTouch h))

theorem unary {op : UnOp} {w : Width} {rm : RM} (h : P s) : P (s.unary op w rm) :=
  r.placeStore (r.setFlags (r.rmTouch h))

theorem multiply {op : (n : Nat) → BitVec n → BitVec n → BitVec n × BitVec n × Bool} {w : Width} {rm : RM}
    (h : P s) : P (s.multiply op w rm) := r.drew (r.setFlags (r.setRegs (r.rmTouch h)))

theorem multiplyInto {w : Width} {i : Num8} {rm : RM} {b : BitVec w.bits} (h : P s) : P (s.multiplyInto w i rm b) :=
  r.drew (r.setFlags (r.setReg (r.rmTouch h)))

theorem divide {w : Width} {qr : Option (BitVec w.bits × BitVec w.bits)} (h : P s) : P (s.divide w qr) := by
  cases qr with
  | none => exact r.raise h
  | some qr => exact r.drew (r.setFlags (r.setRegs h))

theorem shift {op : ShiftOp} {w : Width} {rm : RM} {c : ShCount} (h : P s) : P (s.shift op w rm c) :=
  r.drew (r.placeStore (r.setFlags (r.rmTouch h)))

theorem doubleShift {op : (n : Nat) → BitVec n → BitVec n → Nat → Eflags → Nat → BitVec n × Eflags} {rm : RM}
    {i : Num8} {c : DShCount} (h : P s) : P (s.doubleShift op rm i c) :=
  r.drew (r.placeStore (r.setFlags (r.rmTouch h)))

theorem bitModify {op : (n : Nat) → BitVec n → BitVec n → BitVec n} {rm : RM} {i : BitIdx} (h : P s) :
    P (s.bitModify op rm i) := r.drew (r.placeStore (r.setFlags (r.placeTouch h)))

theorem bitScan {scan : (n : Nat) → BitVec n → Nat} {i : Num8} {rm : RM} (h : P s) : P (s.bitScan scan i rm) :=
  r.drew (r.setFlags (r.setReg (r.rmTouch h)))

theorem storeWord {rm : RM} {v : BitVec 16} (h : P s) : P (s.storeWord rm v) := by
  cases rm with
  | reg i => exact r.setReg h
  | mem m => exact r.segStore h

theorem storeTable {table : Sys → TableReg} {m : MemRef} (h : P s) : P (s.storeTable table m) := by
  unfold State.storeTable
  exact r.placeStore (r.placeStore h)

theorem loadFar {g : Seg} {i : Num8} {m : MemRef} (h : P s) : P (s.loadFar g i m) :=
  r.loadSeg (r.farTouch h) fun _ hu => r.setReg hu

theorem popReg {w : Width} {i : Num8} (h : P s) : P (s.popReg w i) := r.setReg (r.popped h)

theorem pushAll {w : Width} (h : P s) : P (s.pushAll w) :=
  r.push (r.push (r.push (r.push (r.push (r.push (r.push (r.push h)))))))

theorem popAll {w : Width} (h : P s) : P (s.popAll w) :=
  r.popReg (r.popReg (r.popReg (r.popReg (r.popped (r.popReg (r.popReg (r.popReg h)))))))

theorem enterLevels {w : Width} (n : Nat) (h : P s) : P (enterLevels w n s) := by
  induction n generalizing s with
  | zero => exact h
  | succ n ih => exact ih (r.push (r.segTouch (r.setRegs h)))

theorem popFlags {w : Width} (h : P s) : P (s.popFlags w) := r.setFlags (r.popped h)

theorem nearCall {w : Width} {t : Word} (h : P s) : P (s.nearCall w t) := r.setEip (r.push h)

theorem nearReturn {extra : Word} (h : P s) : P (s.nearReturn extra) := r.setEip (r.adjustSp (r.popped h))

theorem farJump {sel : BitVec 16} {off : Word} (h : P s) : P (s.farJump sel off) :=
  r.loadSeg h fun _ hu => r.setEip hu

theorem farCall {w : Width} {sel : BitVec 16} {off : Word} (h : P s) : P (s.farCall w sel off) :=
  r.loadSeg h fun _ hu => r.setEip (r.push (r.push hu))

theorem farReturn {w : Width} {extra : Word} (h : P s) : P (s.farReturn w extra) :=
  r.loadSeg (r.stackTouch (r.stackTouch h)) fun _ hu => r.setEip (r.adjustSp hu)

theorem interruptReturn {w : Width} (h : P s) : P (s.interruptReturn w) := by
  unfold State.interruptReturn
  exact r.loadSeg (r.stackTouch (r.stackTouch (r.stackTouch h))) fun _ hu => r.setFlags (r.setEip (r.adjustSp hu))

theorem loopOn {cond : Bool} {rel : BitVec 8} (h : P s) : P (s.loopOn cond rel) := r.setEip (r.setRegs h)

/-- A call/jump hook is host code; where it does not apply, the transfer goes on (43_control_transfer R504). -/
theorem hooked {k : CallKind} {rm : RM} {u : State} (h : P s) (hu : P u) : P ((s.hooked k rm).getD u) := by
  cases rm with
  | reg i => exact hu
  | mem m =>
    unfold State.hooked
    dsimp only
    split
    · have hn : (s.rmTouch s.osz.width (.mem m)).noHooks = false := by
        rw [noHooks_congr (installed_rmTouch _ _)]
        simp [State.noHooks, *]
      cases Config.callJmpHook k (s.nearTarget (.mem m)) (s.rmTouch s.osz.width (.mem m)) with
      | none => exact hu
      | some t => exact r.resume t hn (r.rmTouch h)
    · exact hu

/-! ### One element of a string instruction -/

theorem movsBody {w : Width} (h : P s) : P (movsBody w s) := r.stepIndex (r.stepIndex (r.segStore (r.segTouch h)))

theorem cmpsBody {w : Width} (h : P s) : P (cmpsBody w s) :=
  r.stepIndex (r.stepIndex (r.setFlags (r.segTouch (r.segTouch h))))

theorem scasBody {w : Width} (h : P s) : P (scasBody w s) := r.stepIndex (r.setFlags (r.segTouch h))

theorem lodsBody {w : Width} (h : P s) : P (lodsBody w s) := r.stepIndex (r.setReg (r.segTouch h))

theorem stosBody {w : Width} (h : P s) : P (stosBody w s) := r.stepIndex (r.segStore h)

theorem insBody {w : Width} (h : P s) : P (insBody w s) := r.stepIndex (r.segStore (r.portTouch _ _ h))

theorem outsBody {w : Width} (h : P s) : P (outsBody w s) := r.stepIndex (r.portWrite _ _ _ (r.segTouch h))

/-! ### Instructions with cases of their own -/

theorem execAam {ib : Byte} (h : P s) : answers P (execAam ib s) := by
  unfold Sys2Proof.Machine.execAam
  split
  · exact r.raise h
  · exact r.drew (r.setFlags (r.setReg (r.setReg h)))

theorem execImul3 {i : Num8} {rm : RM} {v : ImulImm} (h : P s) : answers P (execImul3 i rm v s) := by
  cases v with
  | iz z => exact r.multiplyInto h
  | ib v => exact r.multiplyInto h

theorem execMov {f : MovForm} (h : P s) : answers P (execMov f s) := by
  cases f with
  | rmR w rm i => exact r.rmStore h
  | rRm w i rm => exact r.setReg (r.rmTouch h)
  | ebIb rm v => exact r.rmStore h
  | evIz rm z => exact r.rmStore h
  | rIb i v => exact r.setReg h
  | rIz i z => exact r.setReg h
  | accOff w o => exact r.setReg (r.segTouch h)
  | offAcc w o => exact r.segStore h

theorem execXchg {f : XchgForm} (h : P s) : answers P (execXchg f s) := by
  cases f with
  | rmR w rm i => exact r.setReg (r.placeStore (r.rmTouch h))
  | acc i => exact r.setReg (r.setReg h)

theorem execPush {f : PushForm} (h : P s) : answers P (execPush f s) := by
  cases f with
  | seg g => exact r.push h
  | reg i => exact r.push h
  | iz z => exact r.push h
  | ib v => exact r.push h
  | ev rm => exact r.push (r.rmTouch h)

theorem execPop {f : PopForm} (h : P s) : answers P (execPop f s) := by
  cases f with
  | reg i => exact r.popReg h
  | ev rm => exact r.placeStore (r.popped h)

theorem execEnter {size : BitVec 16} {level : Byte} (h : P s) : answers P (execEnter size level s) := by
  refine r.adjustSp (r.setReg ?_)
  split
  · exact r.push h
  · exact r.push (r.enterLevels _ (r.push h))

theorem execInto (h : P s) : answers P (execInto s) := by
  unfold Sys2Proof.Machine.execInto
  dsimp only [answers]
  split
  · exact r.raise h
  · exact h

theorem execBound {i : Num8} {m : MemRef} (h : P s) : answers P (execBound i m s) := by
  have h2 := r.placeTouch (w := s.osz.width) (p := s.eaPlace m s.osz.width.bytes)
    (r.eaTouch (w := s.osz.width) (m := m) (k := 0) h)
  unfold Sys2Proof.Machine.execBound
  dsimp only [answers]
  split
  · exact r.raise h2
  · exact h2

theorem execArpl {rm : RM} {i : Num8} (h : P s) : answers Q (execArpl rm i s) := by
  refine r.protectedOnly h (r.done ?_)
  dsimp only
  split
  · exact r.setZf (r.placeStore (r.rmTouch h))
  · exact r.setZf (r.rmTouch h)

theorem execLldt {rm : RM} (h : P s) : answers Q (execLldt rm s) := by
  refine r.protectedOnly h (r.requireCpl0 h ?_)
  dsimp only
  split
  · exact r.setSys rfl (r.rmTouch h)
  · split
    · exact r.setSys rfl (r.sysLoadTouch (r.rmTouch h))
    · exact r.done (r.raise (r.sysLoadTouch (r.rmTouch h)))

theorem execLtr {rm : RM} (h : P s) : answers Q (execLtr rm s) := by
  refine r.protectedOnly h (r.requireCpl0 h ?_)
  dsimp only
  split
  · exact r.done (r.raise (r.rmTouch h))
  · split
    · exact r.setSys rfl (r.sysLoadTouch (r.rmTouch h))
    · exact r.done (r.raise (r.sysLoadTouch (r.rmTouch h)))

theorem execSmsw {rm : RM} (h : P s) : answers P (execSmsw rm s) := by
  cases rm with
  | reg i => exact r.setReg h
  | mem m => exact r.segStore h

theorem execRdmsr (h : P s) : answers Q (execRdmsr s) := by
  refine r.requireCpl0 h (r.done ?_)
  dsimp only
  split
  · exact r.setReg (r.setReg h)
  · exact r.raise h

theorem execWrmsr (h : P s) : answers Q (execWrmsr s) := by
  refine r.requireCpl0 h ?_
  dsimp only
  split
  · exact r.setSys rfl h
  · exact r.done (r.raise h)

/-- A write of a control or debug register, then undefined flags (45_system R601, R603): in the end it is the write of
a system register. -/
theorem setSys_flags {y : Sys} {f : Eflags} (hy : y.msrPerm = s.sys.msrPerm) (h : P s) :
    Q (((s.setSys y).setFlags f).drew) :=
  r.setSys (s := (s.setFlags f).drew) hy (r.drew (r.setFlags h))

theorem answers_done {o : Out} (h : answers P o) : answers Q o := by
  cases o with
  | next t => exact r.done h
  | fault _ => trivial
  | refused _ => trivial

/-- What an instruction comes to: `P` before it, `Q` after it. Only writes of system registers leave `P`. -/
theorem exec (h : P s) : ∀ i, answers Q (exec i s)
  | .pfxEs | .pfxCs | .pfxSs | .pfxDs | .pfxFs | .pfxGs => r.done (r.setPfx h)
  | .pfxOpSize | .pfxAdSize | .pfxLock | .pfxRepne | .pfxRep => r.done (r.setPfx h)
  | .add _ | .adc _ | .sbb _ | .sub _ => r.done (r.alu h)
  | .or _ | .and _ | .xor _ => r.done (r.drew (r.alu h))
  | .cmp _ => r.done (r.setFlags (r.rmTouch h))
  | .test _ => r.done (r.drew (r.setFlags (r.rmTouch h)))
  | .inc _ | .dec _ | .not _ _ | .neg _ _ => r.done (r.unary h)
  | .mul _ _ | .imul _ _ => r.done (r.multiply h)
  | .imul2 _ _ => r.done (r.multiplyInto h)
  | .imul3 _ _ _ => r.answers_done (r.execImul3 h)
  | .div _ _ | .idiv _ _ => r.done (r.divide (r.rmTouch h))
  | .rol _ _ _ | .ror _ _ _ | .rcl _ _ _ | .rcr _ _ _ | .shl _ _ _ | .shr _ _ _ | .sar _ _ _ => r.done (r.shift h)
  | .shld _ _ _ | .shrd _ _ _ => r.done (r.doubleShift h)
  | .bt _ _ => r.done (r.drew (r.setFlags (r.placeTouch h)))
  | .bts _ _ | .btr _ _ | .btc _ _ => r.done (r.bitModify h)
  | .bsf _ _ | .bsr _ _ => r.done (r.bitScan h)
  | .daa | .das | .aaa | .aas => r.done (r.drew (r.setFlags (r.setReg h)))
  | .aam _ => r.answers_done (r.execAam h)
  | .aad _ => r.done (r.drew (r.setFlags (r.setReg (r.setReg h))))
  | .clc | .stc | .cmc | .cld | .std | .sahf => r.done (r.setFlags h)
  | .mov _ => r.answers_done (r.execMov h)
  | .movFromSeg _ _ => r.done (r.storeWord h)
  | .movToSeg _ _ => r.done (r.loadSeg (r.rmTouch h) fun _ hu => hu)
  | .movFromCr _ _ | .movFromDr _ _ => r.requireCpl0 h (r.done (r.drew (r.setFlags (r.setReg h))))
  | .movToCr _ _ | .movToDr _ _ => r.requireCpl0 h (r.setSys_flags rfl h)
  | .movzx _ _ _ | .movsx _ _ _ => r.done (r.setReg (r.rmTouch h))
  | .lea _ _ | .cbw | .cwde | .cwd | .cdq | .lahf => r.done (r.setReg h)
  | .push _ => r.answers_done (r.execPush h)
  | .pop _ => r.answers_done (r.execPop h)
  | .popSeg _ => r.done (r.loadSeg (r.segTouch h) fun _ hu => r.adjustSp hu)
  | .pusha | .pushad => r.done (r.pushAll h)
  | .popa | .popad => r.done (r.popAll h)
  | .enter _ _ => r.answers_done (r.execEnter h)
  | .leave => r.done (r.popReg (r.setRegs h))
  | .xchg _ => r.answers_done (r.execXchg h)
  | .nop | .wait => r.done h
  | .xlat => r.done (r.setReg (r.segTouch h))
  | .lds _ _ | .les _ _ | .lfs _ _ | .lgs _ _ | .lss _ _ => r.done (r.loadFar h)
  | .pushf | .pushfd => r.done (r.push h)
  | .popf | .popfd => r.done (r.popFlags h)
  | .seto _ | .setno _ | .setb _ | .setnb _ | .setz _ | .setnz _ | .setbe _ | .setnbe _ => r.done (r.rmStore h)
  | .sets _ | .setns _ | .setp _ | .setnp _ | .setl _ | .setnl _ | .setle _ | .setnle _ => r.done (r.rmStore h)
  | .jo _ | .jno _ | .jb _ | .jnb _ | .jz _ | .jnz _ | .jbe _ | .jnbe _ => r.done (r.setEip h)
  | .js _ | .jns _ | .jp _ | .jnp _ | .jl _ | .jnl _ | .jle _ | .jnle _ => r.done (r.setEip h)
  | .jmp _ | .jcxz _ => r.done (r.setEip h)
  | .jmpRm _ => r.done (r.hooked h (r.setEip (r.rmTouch h)))
  | .jmpFar _ => r.done (r.farJump h)
  | .jmpFarMem _ => r.done (r.farJump (r.farTouch h))
  | .call _ => r.done (r.nearCall h)
  | .callRm _ => r.done (r.hooked h (r.nearCall (r.rmTouch h)))
  | .callFar _ => r.done (r.farCall h)
  | .callFarMem _ => r.done (r.farCall (r.farTouch h))
  | .ret | .retImm _ => r.done (r.nearReturn h)
  | .retf | .retfImm _ => r.done (r.farReturn h)
  | .iret | .iretd => r.done (r.interruptReturn h)
  | .loop _ | .loope _ | .loopne _ => r.done (r.loopOn h)
  | .int _ | .int3 | .ud _ => r.done (r.raise h)
  | .into => r.answers_done (r.execInto h)
  | .bound _ _ => r.answers_done (r.execBound h)
  | .movsb | .movsw | .movsd => r.done (r.repeated h fun _ => r.movsBody)
  | .cmpsb | .cmpsw | .cmpsd => r.done (r.repeated h fun _ => r.cmpsBody)
  | .scasb | .scasw | .scasd => r.done (r.repeated h fun _ => r.scasBody)
  | .lodsb | .lodsw | .lodsd => r.done (r.repeated h fun _ => r.lodsBody)
  | .stosb | .stosw | .stosd => r.done (r.repeated h fun _ => r.stosBody)
  | .insb | .insw | .insd => r.done (r.checkIopl h (r.repeated h fun _ => r.insBody))
  | .outsb | .outsw | .outsd => r.done (r.checkIopl h (r.repeated h fun _ => r.outsBody))
  | .inp _ _ => r.done (r.checkIopl h (r.setReg (r.portTouch _ _ h)))
  | .outp _ _ => r.done (r.checkIopl h (r.portWrite _ _ _ h))
  | .hlt => r.requireCpl0 h (r.done (r.haltWith h))
  | .cli | .sti => r.done (r.checkIopl h (r.setFlags h))
  | .arpl _ _ => r.execArpl h
  | .sldt _ | .str _ => r.protectedOnly h (r.done (r.storeWord h))
  | .lldt _ => r.execLldt h
  | .ltr _ => r.execLtr h
  | .sgdt _ | .sidt _ => r.done (r.storeTable h)
  | .lgdt _ | .lidt _ => r.requireCpl0 h (r.setSys rfl (r.tableTouch h))
  | .smsw _ => r.answers_done (r.execSmsw h)
  | .lmsw _ => r.requireCpl0 h (r.setSys rfl (r.rmTouch h))
  | .clts => r.requireCpl0 h (r.setSys rfl h)
  | .rdmsr => r.execRdmsr h
  | .wrmsr => r.execWrmsr h

/-! ### Fetching, delivery and the cycle -/

theorem fetchBytes (n : Nat) (h : P s) : (s.fetchBytes n).leaves P := by
  induction n generalizing s with
  | zero => exact h
  | succ n ih =>
    have h1 := r.fetchTouch (a := s.fetchLin) h
    unfold State.fetchBytes
    dsimp only
    split
    · exact r.fetchFailed h1
    · split
      · trivial
      · split
        · trivial
        · exact ih (r.setEip h1)

theorem fetchItem (h : P s) : s.fetchItem.leaves P := by
  unfold State.fetchItem
  dsimp only
  cases decode s.decMode (s.codeBytes maxItemBytes) with
  | error e => trivial
  | ok d =>
    have hf := r.fetchBytes ((s.codeBytes maxItemBytes).length - d.2.length) h
    dsimp only
    generalize s.fetchBytes ((s.codeBytes maxItemBytes).length - d.2.length) = f at hf ⊢
    cases f with
    | done s1 => exact hf
    | stopped s1 => exact hf
    | refused _ => trivial

theorem pushFrame {p : Pending} {rcs : BitVec 16} {rip : Word} (h : P s) : P (s.pushFrame p rcs rip) := by
  unfold State.pushFrame
  dsimp only
  split
  · exact r.push (r.push (r.push (r.push h)))
  · exact r.push (r.push (r.push h))

theorem enterHandler {p : Pending} {rcs tsel : BitVec 16} {rip toff : Word} (h : P s) :
    P (s.enterHandler p rcs rip tsel toff) := by
  have hpushed := r.setFlags (v := (s.pushFrame p rcs rip).flags.masked)
    (r.pushFrame (p := p) (rcs := rcs) (rip := rip) h)
  unfold State.enterHandler
  dsimp only
  split
  · exact r.setEip (r.segLoaded (g := .cs) ‹_› hpushed (r.segLoadTouch hpushed))
  · exact r.deliveryFailed (r.segLoadTouch hpushed)

theorem vectorTo {p : Pending} {ra : BitVec 16 × Word} (h : P s) : P (s.vectorTo p ra) := by
  unfold State.vectorTo
  dsimp only
  split
  · exact r.deliveryFailed (r.targetTouch h)
  · exact r.enterHandler (r.targetTouch h)

theorem takeException {p : Pending} (h : P s) : P (s.takeException p) := by
  have h1 := r.setIntr (v := { s.intr with pending := none }) h
  cases hi : s.cfg.intrHook with
  | false => rw [takeException_plain hi]; exact r.vectorTo h1
  | true =>
    have hn : (s.setIntr { s.intr with pending := none }).noHooks = false := by simp [State.noHooks, hi]
    rw [takeException_hook hi]
    dsimp only
    split
    · split
      · exact r.resume _ hn h1
      · exact r.hookReturn p hn h1 (r.resume _ hn h1)
    · exact r.vectorTo (r.resume _ hn h1)

theorem deliver (h : P s) : P s.deliver := by
  cases hp : s.intr.pending with
  | none => rw [deliver_empty hp]; exact h
  | some p => rw [deliver_full hp]; exact r.takeException h

theorem askCheck (h : P s) : P s.askCheck.2 := by
  unfold State.askCheck
  split
  · exact r.resume _ (by simp [State.noHooks, *]) h
  · exact h

/-- Prefixes keep `P`, for what follows them in the same instruction; anything else ends the instruction. -/
theorem runItems (n : Nat) (h : P s) : answers Q (runItems n s) := by
  induction n generalizing s with
  | zero => trivial
  | succ n ih =>
    have hf := r.fetchItem h
    unfold Sys2Proof.Machine.runItems
    cases hs : s.fetchItem with
    | stopped s1 => rw [hs] at hf; exact r.done hf
    | refused _ => trivial
    | instr i s1 =>
      rw [hs] at hf
      dsimp only
      split
      · obtain ⟨v, hx⟩ := exec_of_isPfx ‹_› s1
        rw [hx]
        exact ih (r.setPfx hf)
      · have he := r.exec hf i
        generalize Sys2Proof.Machine.exec i s1 = o at he ⊢
        cases o with
        | next s2 => exact r.counted he
        | fault _ => trivial
        | refused _ => trivial

theorem afterDelivery (h : P s) : answers Q s.afterDelivery := by
  unfold State.afterDelivery
  split
  · exact r.done (r.setCtl h)
  · split
    · exact r.done (r.drew (r.endRunFor h))
    · dsimp only
      split
      · exact r.done (r.drew (r.endRunFor (r.askCheck h)))
      · exact r.runItems _ (r.startInstr (r.drew (r.askCheck h)))

/-- What a step comes to: `P` before it, `Q` after it. -/
theorem step (h : P s) : answers Q (step s) := by
  unfold Sys2Proof.Machine.step State.cycle
  split
  · exact r.afterDelivery (r.deliver h)
  · trivial

end StepRules

end Sys2Proof.Machine

/-! PROOFS. The invariants of a step in 20_memory: `mem_invalid`, the permissions, what is installed, and in real mode the
limits and access rights of the segment registers. -/

namespace Sys2Proof.Machine

/-! ### What a step keeps of memory and permissions -/

section Ports

variable {q : Ports}

theorem Ports.perm_countReads (ps : List (BitVec 16)) : (q.countReads ps).perm = q.perm := by
  induction ps generalizing q with
  | nil => rfl
  | cons p ps ih =>
    rw [Ports.countReads, ih]
    split <;> rfl

theorem Ports.perm_countWrites (ps : List (BitVec 16)) : (q.countWrites ps).perm = q.perm := by
  induction ps generalizing q with
  | nil => rfl
  | cons p ps ih => exact ih

theorem Ports.perm_writeBytes (l : List (BitVec 16 × Byte)) : (q.writeBytes l).perm = q.perm := by
  induction l generalizing q with
  | nil => rfl
  | cons c r ih =>
    rw [Ports.writeBytes, ih]
    split <;> rfl

end Ports

theorem portWrite_perm (s : State) (w : Width) (p : BitVec 16) (v : BitVec w.bits) :
    (s.portWrite w p v).ports.perm = s.ports.perm := by
  unfold State.portWrite
  dsimp only
  split
  · exact Ports.perm_countWrites _
  · exact Ports.perm_writeBytes _

/-- Without host code, what the accesses to memory and a refused port access keep of memory is kept by a step, and so are
the port permissions `p` and the MSR permissions `q` (10_state R58, R67). -/
theorem stepRules_of_memory {R : Memory → Prop} (p : List (Nat × Byte)) (q : List (Nat × BitVec 2))
    (hread : ∀ m k as, k ≠ .write → R m → R (m.touchAll k as)) (hwrite : ∀ m l, R m → R (m.writeAll l))
    (hport : ∀ (m : Memory) (b : Bool), R m → R { m with invalid := m.invalid || b }) :
    StepRules (fun t => t.noHooks = true ∧ R t.mem ∧ t.ports.perm = p ∧ t.sys.msrPerm = q)
      (fun t => t.noHooks = true ∧ R t.mem ∧ t.ports.perm = p ∧ t.sys.msrPerm = q) where
  done h := h
  frame h hP := by
    obtain ⟨-, hsys, hmem, hports, hinst⟩ := beyondRegs_inj h
    rwa [noHooks_congr hinst, hmem, hports, hsys]
  touchAll k as _ hk h := ⟨h.1, hread _ k as hk h.2.1, h.2.2⟩
  writeAll l _ h := ⟨h.1, hwrite _ l h.2.1, h.2.2⟩
  portTouch w a h := ⟨h.1, hport _ _ h.2.1, (Ports.perm_countReads _).trans h.2.2.1, h.2.2.2⟩
  portWrite w a v h := ⟨h.1, hport _ _ h.2.1, (portWrite_perm ..).trans h.2.2.1, h.2.2.2⟩
  segLoaded _ _ h := h
  setSys hy h := ⟨h.1, h.2.1, h.2.2.1, hy.trans h.2.2.2⟩
  counted h := h
  resume _ hn h := by simp [h.1] at hn
  hookReturn _ hn h _ := by simp [h.1] at hn

/-- Settles O8: no access clears the flag, and the host's reset does. -/
theorem stepKeepsInvalidFlag : Obligations.StepKeepsInvalidFlag := by
  unfold Obligations.StepKeepsInvalidFlag
  refine ⟨fun s t hn hi ht => ?_, fun s => rfl⟩
  have r := stepRules_of_memory (R := fun m => m.invalid = true) s.ports.perm s.sys.msrPerm
    (fun m _ as _ h => Memory.invalid_touchAll m as h) Memory.invalid_writeAll (fun m b h => by simp [h])
  obtain ⟨-, hinvalid, -⟩ := answers_next (r.step ⟨hn, hi, rfl, rfl⟩) ht
  exact hinvalid

/-! ### Permission nibbles -/

/-- The permission nibbles differ by VALID at bytes that may be written, if at all (20_memory R121). -/
def Memory.onlyValidated (m m' : Memory) : Prop :=
  ∀ b, m'.perms b = m.perms b ∨ (m.permitted .write b = true ∧ m'.perms b = m.perms b ||| 0x08)

theorem Memory.onlyValidated_refl (m : Memory) : m.onlyValidated m := fun _ => .inl rfl

theorem Memory.onlyValidated_trans {m m1 m2 : Memory} (h : m.onlyValidated m1) (h' : m1.onlyValidated m2) :
    m.onlyValidated m2 := by
  intro b
  have hw : m1.permitted .write b = m.permitted .write b :=
    Memory.permitted_write_of_perms_or ((h b).imp_right And.right)
  rcases h' b with h2 | ⟨hp, h2⟩
  · rw [h2]; exact h b
  · refine .inr ⟨hw ▸ hp, ?_⟩
    rcases h b with h1 | ⟨-, h1⟩ <;> rw [h2, h1]
    rw [BitVec.or_assoc, BitVec.or_self]

theorem Memory.onlyValidated_writeByte {m : Memory} (h : m.wf = true) (a : Word) (v : Byte) :
    m.onlyValidated (m.writeByte a v) := by
  intro b
  rw [Memory.perms_writeByte h]
  split
  · rename_i hb
    obtain ⟨rfl, hp⟩ := hb
    exact .inr ⟨hp, rfl⟩
  · exact .inl rfl

theorem Memory.onlyValidated_writeAll {m : Memory} (h : m.wf = true) (l : List (Word × Byte)) :
    m.onlyValidated (m.writeAll l) := by
  induction l generalizing m with
  | nil => exact m.onlyValidated_refl
  | cons c r ih =>
    exact Memory.onlyValidated_trans (Memory.onlyValidated_writeByte h c.1 c.2) (ih (Memory.wf_writeByte h))

theorem Memory.onlyValidated_touchAll {m : Memory} (h : m.wf = true) {k : Access} (hk : k ≠ .write) (as : List Word) :
    m.onlyValidated (m.touchAll k as) :=
  fun _ => .inl (Memory.perms_touchAll h hk as)

/-! ### What is installed -/

/-- A step keeps the launch parameters and whether a handler is installed, whatever host code takes part
(10_state R70, 20_memory R124). -/
theorem stepRules_installed (c : Launch × Bool) :
    StepRules (fun t => t.installed = c) (fun t => t.installed = c) where
  done h := h
  frame h hP := by
    obtain ⟨-, -, -, -, hinst⟩ := beyondRegs_inj h
    exact hinst.trans hP
  touchAll _ _ _ _ h := h
  writeAll _ _ h := h
  portTouch _ _ h := h
  portWrite _ _ _ h := h
  segLoaded _ _ h := h
  setSys _ h := h
  counted h := h
  resume t _ h := (installed_resume t).trans h
  hookReturn _ _ _ h := h

/-- Settles O9: of the operations of a step only a permitted write changes a nibble, and none changes the rest. -/
theorem stepKeepsPermissions : Obligations.StepKeepsPermissions := by
  unfold Obligations.StepKeepsPermissions
  constructor
  · intro s t hn hw ht
    have r := stepRules_of_memory (R := fun m => m.wf = true ∧ s.mem.onlyValidated m) s.ports.perm s.sys.msrPerm
      (fun m k as hk h => ⟨Memory.wf_touchAll h.1 as,
        Memory.onlyValidated_trans h.2 (Memory.onlyValidated_touchAll h.1 hk as)⟩)
      (fun m l h => ⟨Memory.wf_writeAll h.1 l,
        Memory.onlyValidated_trans h.2 (Memory.onlyValidated_writeAll h.1 l)⟩)
      (fun m b h => h)
    obtain ⟨-, ⟨-, hperms⟩, hports, hmsr⟩ :=
      answers_next (r.step ⟨hn, ⟨hw, s.mem.onlyValidated_refl⟩, rfl, rfl⟩) ht
    exact ⟨hperms, hports, hmsr⟩
  · intro s t ht
    exact Prod.mk.inj (answers_next ((stepRules_installed s.installed).step rfl) ht)

/-! ### Limits and access rights in real mode -/

/-- Every segment register has the limit and the access rights it had. -/
def State.sameRights (s t : State) : Prop :=
  ∀ g, (t.segs.get g).limit = (s.segs.get g).limit ∧ (t.segs.get g).acc = (s.segs.get g).acc

/-- In real mode a step without host code keeps the rights of every segment register; the write of a system register,
which may leave real mode, is the last thing that an instruction does (20_memory R130). -/
theorem stepRules_sameRights (s : State) :
    StepRules (fun t => t.noHooks = true ∧ t.pe = false ∧ s.sameRights t) s.sameRights where
  done h := h.2.2
  frame h hP := by
    obtain ⟨hsegs, hsys, -, -, hinst⟩ := beyondRegs_inj h
    rwa [noHooks_congr hinst, State.pe, State.sameRights, hsegs, hsys]
  touchAll _ _ _ _ h := h
  writeAll _ _ h := h
  portTouch _ _ h := h
  portWrite _ _ _ h := h
  segLoaded {u g sel v} hv h _ := by
    obtain ⟨hn, hpe, hsame⟩ := h
    rw [segLoad_real _ sel hpe, Option.some.injEq] at hv
    rw [segLoadTouch_real sel hpe, ← hv]
    refine ⟨hn, hpe, fun g' => ?_⟩
    rw [State.setSegs_segs, Segs.get_set]
    split
    · subst g'; exact hsame g
    · exact hsame g'
  setSys _ h := h.2.2
  counted h := h
  resume _ hn h := by simp [h.1] at hn
  hookReturn _ hn h _ := by simp [h.1] at hn

/-- Settles O12: every load of a segment register in real mode keeps limit and rights, and nothing else writes them. -/
theorem realModeStepKeepsLimitsAndRights : Obligations.RealModeStepKeepsLimitsAndRights := by
  unfold Obligations.RealModeStepKeepsLimitsAndRights
  intro s t g hpe hn ht
  exact answers_next ((stepRules_sameRights s).step ⟨hn, hpe, fun _ => ⟨rfl, rfl⟩⟩) ht g

end Sys2Proof.Machine

/-! PROOFS. One byte of the paged memory under each access, an access that a handler answers, and that a read returns what
was written (20_memory R111 to R119, R124). -/

namespace Sys2Proof.Machine

section Byte

variable {m : Memory} {a : Word} {v : Byte} {k : Access}

theorem Memory.permitted_iff : m.permitted k a = true ↔ m.attrAt a &&& k.need = k.need := by
  simp [Memory.permitted]

theorem Memory.permitted_eq_false_iff : m.permitted k a = false ↔ m.attrAt a &&& k.need ≠ k.need := by
  simp [Memory.permitted]

/-- A write leaves the attributes that its access leaves (20_memory R114). -/
theorem Memory.attrAt_writeByte (b : Word) : (m.writeByte a v).attrAt b = (m.touch .write a).attrAt b := by
  unfold Memory.writeByte
  split
  · exact Memory.attrAt_setData
  · rfl

/-- A permitted access sets its mark (20_memory R113 to R115). -/
theorem Memory.touch_permitted (h : m.wf = true) (hp : m.permitted k a = true) :
    (m.touch k a).attrAt a = m.attrAt a ||| k.mark ∧ (m.touch k a).invalid = m.invalid := by
  simp [Memory.attrAt_touch h, hp]

/-- A refused access sets its sticky bit and `mem_invalid` (20_memory R113 to R115, R118). -/
theorem Memory.touch_refused (h : m.wf = true) (hp : m.permitted k a = false) :
    (m.touch k a).attrAt a = m.attrAt a ||| 0x80 ∧ (m.touch k a).invalid = true := by
  simp [Memory.attrAt_touch h, hp]

theorem Memory.read_permitted (h : m.wf = true) (hp : m.permitted .read a = true) :
    m.val .b8 a = m.dataAt a ∧ m.ok .b8 a = true ∧
      (m.touchRead .b8 a).attrAt a = m.attrAt a ||| 0x10 ∧ (m.touchRead .b8 a).invalid = m.invalid :=
  ⟨if_pos hp, by simp [Memory.ok, span, hp], Memory.touch_permitted h hp⟩

theorem Memory.read_refused (h : m.wf = true) (hp : m.permitted .read a = false) :
    m.val .b8 a = 0xFF ∧ m.ok .b8 a = false ∧
      (m.touchRead .b8 a).attrAt a = m.attrAt a ||| 0x80 ∧ (m.touchRead .b8 a).invalid = true :=
  ⟨if_neg (by simp [hp]), by simp [Memory.ok, span, hp], Memory.touch_refused h hp⟩

theorem Memory.writeByte_permitted (h : m.wf = true) (hp : m.permitted .write a = true) :
    (m.writeByte a v).dataAt a = v ∧ (m.writeByte a v).attrAt a = m.attrAt a ||| 0x28 ∧
      (m.writeByte a v).invalid = m.invalid := by
  refine ⟨by simp [Memory.dataAt_writeByte h, hp], ?_, by simp [hp]⟩
  rw [Memory.attrAt_writeByte]
  exact (Memory.touch_permitted h hp).1

theorem Memory.writeByte_refused (h : m.wf = true) (hp : m.permitted .write a = false) :
    (m.writeByte a v).dataAt a = m.dataAt a ∧ (m.writeByte a v).attrAt a = m.attrAt a ||| 0x80 ∧
      (m.writeByte a v).invalid = true := by
  refine ⟨by simp [Memory.dataAt_writeByte h, hp], ?_, by simp [hp]⟩
  rw [Memory.attrAt_writeByte]
  exact (Memory.touch_refused h hp).1

theorem Memory.fetch_permitted (h : m.wf = true) (hp : m.permitted .fetch a = true) :
    m.fetchByte a = m.dataAt a ∧ m.fetchRefused a = none ∧
      (m.touch .fetch a).attrAt a = m.attrAt a ||| 0x40 ∧ (m.touch .fetch a).invalid = m.invalid :=
  ⟨if_pos hp, if_pos hp, Memory.touch_permitted h hp⟩

/-- A refused fetch is `noexec` where PERM_X is missing, else `novalid` (20_memory R115). -/
theorem Memory.fetch_refused (h : m.wf = true) (hp : m.permitted .fetch a = false) :
    m.fetchByte a = 0xFF ∧ m.fetchRefused a = some (decide ((m.attrAt a).getLsbD 2 = false)) ∧
      (m.touch .fetch a).attrAt a = m.attrAt a ||| 0x80 ∧ (m.touch .fetch a).invalid = true := by
  have hbit : ∀ x : Byte, (x &&& 0x04 == 0) = decide (x.getLsbD 2 = false) := by decide
  refine ⟨if_neg (by simp [hp]), ?_, Memory.touch_refused h hp⟩
  rw [← hbit]
  exact if_neg (by simp [hp])

end Byte

/-- A handler's access: the core goes on in the state it leaves, where that is one (60_exceptions R690). -/
theorem asked_handler {s : State} {n : Nat} (h : s.io = some n) (k : Access) (w : Width) (a v : Word)
    (hw : (Config.memIo k w a v s).state.wf = true) :
    s.asked k w a v = { (Config.memIo k w a v s).state with
      cfg := s.cfg
      draws := s.draws
      ctl := { (Config.memIo k w a v s).state.ctl with running := s.ctl.running }
      io := some ((Config.memIo k w a v s).state.io.getD n) } := by
  simp only [State.asked, State.resume, h, Option.map_some]
  exact if_pos hw

/-- Settles O10: permitted and refused accesses byte by byte, then the two things that can answer an access. -/
theorem byteAccessEffects : Obligations.ByteAccessEffects := by
  unfold Obligations.ByteAccessEffects
  refine ⟨fun m a v hw => ?_, fun s w a v hio => ?_, fun s n w a v hio => ?_⟩
  · have hp : ∀ k, m.attrAt a &&& Access.need k = k.need → m.permitted k a = true := fun _ => Memory.permitted_iff.2
    have hr : ∀ k, m.attrAt a &&& Access.need k ≠ k.need → m.permitted k a = false :=
      fun _ => Memory.permitted_eq_false_iff.2
    exact ⟨fun h => Memory.read_permitted hw (hp .read h), fun h => Memory.read_refused hw (hr .read h),
      fun h => Memory.writeByte_permitted hw (hp .write h), fun h => Memory.writeByte_refused hw (hr .write h),
      fun h => Memory.fetch_permitted hw (hp .fetch h), fun h => Memory.fetch_refused hw (hr .fetch h),
      Memory.dataAt_touchRead _ _, Memory.dataAt_touch⟩
  · exact ⟨memVal_paged hio w a, memOk_paged hio w a, memTouch_paged hio w a, memStore_paged hio w a v,
      fetchVal_paged hio a, fetchRefused_paged hio a, fetchTouch_paged hio a⟩
  · simp only [State.memVal, State.memOk, State.fetchVal, State.fetchRefused, State.memTouch, State.memStore,
      State.fetchTouch, hio, true_and]
    exact ⟨asked_handler hio .read w a 0, asked_handler hio .write w a _, asked_handler hio .fetch .b8 a 0⟩

section ReadBack

variable {m : Memory} {w : Width} {a b : Word} {v : BitVec w.bits}

/-- What may be read and written may be read once it has been written: a write sets VALID (20_memory R119). -/
theorem Memory.permitted_read_of_perms_or {m' : Memory} (h : m.attrAt b &&& 0x03 = 0x03)
    (h' : m'.perms b = m.perms b ||| 0x08) : m'.permitted .read b = true := by
  have hbits : ∀ x : Byte, x &&& 0x03 = 0x03 → ((x &&& 0x0F ||| 0x08) &&& 0x09 == 0x09) = true := by decide
  rw [Memory.permitted_eq_perms, h']
  exact hbits _ h

/-- Each byte of a stored value is read back from its address (20_memory R119). -/
theorem Memory.readByte_store_of_mem (hw : m.wf = true) (hp : ∀ b ∈ span w.bytes a, m.attrAt b &&& 0x03 = 0x03)
    {x : Byte} (hb : (b, x) ∈ (span w.bytes a).zip (leBytes w v)) : (m.store w a v).readByte b = x := by
  have hrw := hp b (List.of_mem_zip hb).1
  have hbits : ∀ y : Byte, y &&& 0x03 = 0x03 → y &&& 0x02 = 0x02 := by decide
  have hwrite : m.permitted .write b = true := Memory.permitted_iff.2 (hbits _ hrw)
  obtain ⟨hdata, hperms⟩ := (Memory.stored_store hw w a v).2 _ hb
  simp only [hwrite, if_true] at hdata hperms
  rw [Memory.readByte, Memory.permitted_read_of_perms_or hrw hperms, if_pos rfl, hdata]

end ReadBack

/-- A value is its bytes, the least significant last (20_memory R100). -/
theorem append_bytes16 (v : BitVec 16) : v.extractLsb' 8 8 ++ v.extractLsb' 0 8 = v := by
  rw [BitVec.extractLsb'_append_extractLsb'_eq_extractLsb' (by rfl), BitVec.extractLsb'_eq_self]

theorem append_bytes32 (v : Word) :
    v.extractLsb' 24 8 ++ v.extractLsb' 16 8 ++ v.extractLsb' 8 8 ++ v.extractLsb' 0 8 = v := by
  rw [BitVec.extractLsb'_append_extractLsb'_eq_extractLsb' (start₂ := 24) (by rfl),
    BitVec.extractLsb'_append_extractLsb'_eq_extractLsb' (start₂ := 16) (by rfl),
    BitVec.extractLsb'_append_extractLsb'_eq_extractLsb' (start₂ := 8) (by rfl), BitVec.extractLsb'_eq_self]

/-- Settles O11: the bytes of the value are read back one by one, and put together they are the value. -/
theorem readAfterWrite : Obligations.ReadAfterWrite := by
  unfold Obligations.ReadAfterWrite
  intro m w a v hw hp
  have hback := fun b x => Memory.readByte_store_of_mem (b := b) (x := x) (v := v) hw hp
  cases w with
  | b8 => exact hback a v (by simp [span, leBytes])
  | b16 =>
    have h0 := hback a (v.extractLsb' 0 8) (by simp [span, leBytes])
    have h1 := hback (a + 1) (v.extractLsb' 8 8) (by simp [span, leBytes])
    rw [Memory.val, h0, h1, append_bytes16]
  | b32 =>
    have h0 := hback a (v.extractLsb' 0 8) (by simp [span, leBytes])
    have h1 := hback (a + 1) (v.extractLsb' 8 8) (by simp [span, leBytes])
    have h2 := hback (a + 1 + 1) (v.extractLsb' 16 8) (by simp [span, leBytes])
    have h3 := hback (a + 1 + 1 + 1) (v.extractLsb' 24 8) (by simp [span, leBytes])
    rw [Memory.val, h0, h1, h2, h3, append_bytes32]

end Sys2Proof.Machine

/-! PROOFS. A load of a segment register comes to what `State.segOutcome` says, in both modes; from that, what every
instruction does that loads a data or stack segment register (20_memory R130 to R136; 41_data_movement R326, R338,
R344). -/

namespace Sys2Proof.Machine

/-! ### Descriptors -/

theorem toNat_append_add {j k : Nat} (x : BitVec j) (y : BitVec k) :
    (x ++ y).toNat = x.toNat * 2 ^ k + y.toNat := by
  rw [BitVec.toNat_append, ← Nat.shiftLeft_add_eq_or_of_lt y.isLt, Nat.shiftLeft_eq]

theorem isNullSel_eq (sel : BitVec 16) : isNullSel sel = decide (sel.toNat < 4) := by
  rw [isNullSel, Bool.eq_iff_iff, beq_iff_eq, decide_eq_true_iff, ← BitVec.toNat_inj, BitVec.extractLsb'_toNat,
    Nat.shiftRight_eq_div_pow]
  have := sel.isLt
  change _ = 0 ↔ _
  omega

/-- The offset of a descriptor: the selector without its low three bits (20_memory R132). -/
theorem selIndex8_eq (sel : BitVec 16) : selIndex8 sel = BitVec.ofNat 32 (sel.toNat / 8 * 8) := by
  have := sel.isLt
  apply BitVec.eq_of_toNat_eq
  simp only [selIndex8, toNat_append_add, BitVec.extractLsb'_toNat, Nat.shiftRight_eq_div_pow, BitVec.toNat_ofNat]
  omega

theorem toNat_selIndex8 (sel : BitVec 16) : (selIndex8 sel).toNat = sel.toNat / 8 * 8 := by
  have := sel.isLt
  rw [selIndex8_eq, BitVec.toNat_ofNat]
  omega

/-- The number that four bytes are, the least significant last (20_memory R100). -/
theorem toNat_bytes (b0 b1 b2 b3 : Byte) :
    (b3 ++ b2 ++ b1 ++ b0).toNat = b0.toNat + 256 * b1.toNat + 65536 * b2.toNat + 16777216 * b3.toNat := by
  simp only [toNat_append_add]
  omega

/-- A limit in pages of 4096 bytes (20_memory R133). -/
theorem pageLimit_eq {x : Word} (h : x.toNat < 2 ^ 20) :
    (x <<< 12) ||| 0xFFF = BitVec.ofNat 32 (4096 * x.toNat + 4095) := by
  apply BitVec.eq_of_toNat_eq
  have h12 := Nat.shiftLeft_add_eq_or_of_lt (i := 12) (b := 4095) (by decide) x.toNat
  rw [BitVec.toNat_or, BitVec.toNat_shiftLeft, BitVec.toNat_ofNat, Nat.mod_eq_of_lt (by omega)]
  rw [Nat.shiftLeft_eq] at h12 ⊢
  change _ ||| 4095 = _
  omega

/-- The record of a descriptor, from its bytes (20_memory R133, R135). -/
theorem segReg_decodeDescriptor (sel : BitVec 16) (b0 b1 b2 b3 b4 b5 b6 b7 : Byte) :
    (decodeDescriptor (b3 ++ b2 ++ b1 ++ b0) (b7 ++ b6 ++ b5 ++ b4)).segReg sel =
      segOfBytes sel b0 b1 b2 b3 b4 b5 b6 b7 := by
  have lt0 := b0.isLt
  have lt1 := b1.isLt
  have lt2 := b2.isLt
  have lt3 := b3.isLt
  have lt4 := b4.isLt
  have lt5 := b5.isLt
  have lt6 := b6.isLt
  have lt7 := b7.isLt
  have hacc : (b7 ++ b6 ++ b5 ++ b4).extractLsb' 20 4 ++ (b7 ++ b6 ++ b5 ++ b4).extractLsb' 8 8 =
      b6.extractLsb' 4 4 ++ b5 := by
    apply BitVec.eq_of_toNat_eq
    simp only [toNat_append_add, BitVec.extractLsb'_toNat, Nat.shiftRight_eq_div_pow]
    omega
  have hlimit : (0#12 ++ (b7 ++ b6 ++ b5 ++ b4).extractLsb' 16 4 ++ (b3 ++ b2 ++ b1 ++ b0).extractLsb' 0 16).toNat =
      b0.toNat + 256 * b1.toNat + 65536 * (b6.toNat % 16) := by
    simp only [toNat_append_add, BitVec.extractLsb'_toNat, Nat.shiftRight_eq_div_pow, BitVec.toNat_ofNat]
    omega
  have hbase : (b7 ++ b6 ++ b5 ++ b4).extractLsb' 24 8 ++ (b7 ++ b6 ++ b5 ++ b4).extractLsb' 0 8 ++
      (b3 ++ b2 ++ b1 ++ b0).extractLsb' 16 16 = b7 ++ b4 ++ b3 ++ b2 := by
    apply BitVec.eq_of_toNat_eq
    simp only [toNat_append_add, BitVec.extractLsb'_toNat, Nat.shiftRight_eq_div_pow]
    omega
  have hpages : (b6.extractLsb' 4 4 ++ b5).getLsbD 11 = b6.getLsbD 7 := by
    rw [BitVec.getLsbD_append, BitVec.getLsbD_extractLsb']
    rfl
  simp only [decodeDescriptor, Descriptor.segReg, segOfBytes, hacc, hbase, hpages, SegReg.mk.injEq, true_and, and_true]
  split
  · rw [pageLimit_eq (by omega), hlimit]
  · rw [← hlimit, BitVec.ofNat_toNat, BitVec.setWidth_eq]

theorem span_add (j k : Nat) (a : Word) : span (j + k) a = span j a ++ span k (a + BitVec.ofNat 32 j) := by
  induction j generalizing a with
  | zero => simp [span]
  | succ j ih =>
    rw [Nat.succ_add, span, ih, span, List.cons_append, BitVec.add_assoc, BitVec.ofNat_add,
      BitVec.add_comm (BitVec.ofNat 32 j)]
    rfl

/-- A descriptor is read with `ok` where all its eight bytes may be read (20_memory R116, R133). -/
theorem descValid_eq {s : State} (h : s.paged = true) (a : Word) :
    s.descValid a = (span 8 a).all (s.mem.permitted .read) := by
  rw [descValid_paged h, span_add 4 4, List.all_append]
  rfl

theorem getElem_span {n k : Nat} (a : Word) (h : k < (span n a).length) : (span n a)[k] = a + BitVec.ofNat 32 k := by
  induction n generalizing a k with
  | zero => simp at h
  | succ n ih =>
    cases k with
    | zero => exact (BitVec.add_zero a).symm
    | succ k =>
      have hk : k < (span n (a + 1)).length := by simpa using h
      refine (ih (a + 1) hk).trans ?_
      rw [BitVec.add_assoc, BitVec.ofNat_add, BitVec.add_comm (BitVec.ofNat 32 k)]
      rfl

theorem mem_span {n : Nat} {a b : Word} : b ∈ span n a ↔ ∃ k < n, a + BitVec.ofNat 32 k = b := by
  simp only [List.mem_iff_getElem, getElem_span, length_span, exists_prop]

theorem add_mem_span {n k : Nat} (h : k < n) (a : Word) : a + BitVec.ofNat 32 k ∈ span n a := mem_span.2 ⟨k, h, rfl⟩

/-- What a word of memory is, where it may be read. -/
theorem Memory.val_permitted {m : Memory} {a : Word} (h : ∀ b ∈ span 4 a, m.permitted .read b = true) :
    m.val .b32 a = m.dataAt (a + BitVec.ofNat 32 3) ++ m.dataAt (a + BitVec.ofNat 32 2) ++
      m.dataAt (a + BitVec.ofNat 32 1) ++ m.dataAt (a + BitVec.ofNat 32 0) := by
  have hb : ∀ k, k < 4 → m.readByte (a + BitVec.ofNat 32 k) = m.dataAt (a + BitVec.ofNat 32 k) :=
    fun k hk => if_pos (h _ (add_mem_span hk a))
  have h2 : a + 1 + 1 = a + BitVec.ofNat 32 2 := BitVec.add_assoc ..
  have h3 : a + 1 + 1 + 1 = a + BitVec.ofNat 32 3 := by rw [h2]; exact BitVec.add_assoc ..
  rw [← hb 3 (by decide), ← hb 2 (by decide), ← hb 1 (by decide), ← hb 0 (by decide), Memory.val, h3, h2,
    BitVec.add_zero]
  rfl

/-- The descriptor at an address where all eight bytes may be read (20_memory R133, R135). -/
theorem segReg_descriptor {s : State} (h : s.paged = true) {a : Word} (sel : BitVec 16)
    (hr : ∀ b ∈ span 8 a, s.mem.permitted .read b = true) :
    (s.descriptor a).segReg sel =
      let byte := fun k => s.mem.dataAt (a + BitVec.ofNat 32 k)
      segOfBytes sel (byte 0) (byte 1) (byte 2) (byte 3) (byte 4) (byte 5) (byte 6) (byte 7) := by
  rw [span_add 4 4] at hr
  simp only [List.forall_mem_append] at hr
  have hup : ∀ k, a + BitVec.ofNat 32 4 + BitVec.ofNat 32 k = a + BitVec.ofNat 32 (4 + k) := fun k => by
    rw [BitVec.ofNat_add, BitVec.add_assoc]
  rw [descriptor_paged h, show a + 4 = a + BitVec.ofNat 32 4 from rfl, Memory.val_permitted hr.1,
    Memory.val_permitted hr.2, segReg_decodeDescriptor]
  simp only [hup]

/-- A descriptor is that of a present segment by two bits of its sixth byte (20_memory R133). -/
theorem present_isSegment_eq {d : Descriptor} {sel : BitVec 16} {b0 b1 b2 b3 b4 b5 b6 b7 : Byte}
    (h : d.segReg sel = segOfBytes sel b0 b1 b2 b3 b4 b5 b6 b7) :
    d.present = b5.getLsbD 7 ∧ d.isSegment = b5.getLsbD 4 := by
  have hacc : d.acc = b6.extractLsb' 4 4 ++ b5 := congrArg SegReg.acc h
  rw [Descriptor.present, Descriptor.isSegment, hacc, BitVec.getLsbD_append, BitVec.getLsbD_append]
  exact ⟨rfl, rfl⟩

/-- The table of a selector, by bit 2 (20_memory R132). -/
theorem tableOf_eq (s : State) (sel : BitVec 16) :
    (s.tableOf sel).1 = (if sel.getLsbD 2 = true then s.sys.ldtr.base else s.sys.gdtr.base) ∧
      (s.tableOf sel).2.toNat = (if sel.getLsbD 2 = true then s.sys.ldtr.limit.toNat else s.sys.gdtr.limit.toNat) := by
  unfold State.tableOf
  have := s.sys.gdtr.limit.isLt
  split
  · exact ⟨rfl, rfl⟩
  · exact ⟨rfl, by rw [BitVec.toNat_setWidth]; omega⟩

/-- Where a descriptor inside its table is (20_memory R132). -/
theorem descAddr_eq (s : State) (sel : BitVec 16) :
    s.descAddr sel =
      if (s.tableOf sel).2.toNat < sel.toNat / 8 * 8 + 7 then none
      else some ((s.tableOf sel).1 + BitVec.ofNat 32 (sel.toNat / 8 * 8)) := by
  rw [← selIndex8_eq, ← toNat_selIndex8]
  rfl

/-- The base of a segment in real mode (20_memory R130). -/
theorem realBase_eq (sel : BitVec 16) : sel.setWidth 32 <<< 4 = BitVec.ofNat 32 (16 * sel.toNat) := by
  apply BitVec.eq_of_toNat_eq
  rw [BitVec.toNat_shiftLeft, Nat.shiftLeft_eq, BitVec.toNat_setWidth, BitVec.toNat_ofNat]
  have := sel.isLt
  omega

/-- A load of a segment register comes to what `segOutcome` says (20_memory R130 to R135). -/
theorem segLoad_eq_segOutcome {s : State} (h : s.paged = true) (old : SegReg) (sel : BitVec 16) :
    s.segLoad old sel = s.segOutcome old sel := by
  obtain ⟨hbase, hlimit⟩ := tableOf_eq s sel
  unfold State.segOutcome
  rw [← hbase, ← hlimit]
  dsimp only
  cases hpe : s.pe with
  | false => rw [segLoad_real old sel hpe, realBase_eq, if_pos rfl]; rfl
  | true =>
    rw [if_neg (by decide)]
    by_cases hnull : sel.toNat < 4
    · rw [segLoad_null old hpe (by simpa [isNullSel_eq] using hnull), if_pos hnull]
    have hn : isNullSel sel = false := by simpa [isNullSel_eq] using hnull
    rw [if_neg hnull]
    by_cases hin : (s.tableOf sel).2.toNat < sel.toNat / 8 * 8 + 7
    · rw [if_pos hin, segLoad_outside old hpe hn ((descAddr_eq s sel).trans (if_pos hin))]
    rw [if_neg hin, segLoad_inside old hpe hn ((descAddr_eq s sel).trans (if_neg hin)), descValid_eq h,
      ← List.not_all_eq_any_not]
    simp only [BitVec.ofNat_add, ← BitVec.add_assoc]
    generalize (s.tableOf sel).1 + BitVec.ofNat 32 (sel.toNat / 8 * 8) = a
    cases hread : (span 8 a).all (s.mem.permitted .read) with
    | false => simp
    | true =>
      have hseg := segReg_descriptor h sel (List.all_eq_true.1 hread)
      obtain ⟨hpresent, hsegment⟩ := present_isSegment_eq hseg
      rw [hpresent, hsegment, hseg]
      simp

/-! ### The outcome in each case -/

/-- Bytes that memory holds, one by one. -/
theorem Memory.holds_getElem {m : Memory} {a : Word} {l : List Byte} (h : m.holds a l) {k : Nat} (hk : k < l.length) :
    m.permitted .read (a + BitVec.ofNat 32 k) = true ∧ m.dataAt (a + BitVec.ofNat 32 k) = l[k] := by
  have hz : k < ((span l.length a).zip l).length := by simpa using hk
  have hc := h _ (List.getElem_mem hz)
  rwa [List.getElem_zip, getElem_span] at hc

theorem segOutcome_real {s : State} (old : SegReg) (sel : BitVec 16) (hpe : s.pe = false) :
    s.segOutcome old sel = some (old.inReal sel) := if_pos hpe

section Outcome

variable {s : State} {old : SegReg} {sel : BitVec 16} (hpe : s.pe = true)

include hpe

theorem segOutcome_null (hnull : sel.toNat < 4) : s.segOutcome old sel = some ⟨sel, 0, 0, 0⟩ := by
  simp [State.segOutcome, hpe, hnull]

variable (hsel : 4 ≤ sel.toNat)

include hsel

theorem segOutcome_outside
    (hout : (if sel.getLsbD 2 = true then s.sys.ldtr.limit.toNat else s.sys.gdtr.limit.toNat) < sel.toNat / 8 * 8 + 7) :
    s.segOutcome old sel = none := by
  simp only [State.segOutcome, hpe, Nat.not_lt.2 hsel, if_pos hout]
  rfl

variable (hin : sel.toNat / 8 * 8 + 7 ≤ if sel.getLsbD 2 = true then s.sys.ldtr.limit.toNat else s.sys.gdtr.limit.toNat)
  {a : Word}
  (ha : (if sel.getLsbD 2 = true then s.sys.ldtr.base else s.sys.gdtr.base) + BitVec.ofNat 32 (sel.toNat / 8 * 8) = a)

include hin ha

theorem segOutcome_unreadable (hread : ∃ b ∈ span 8 a, s.mem.permitted .read b = false) :
    s.segOutcome old sel = none := by
  have hany : (span 8 a).any (fun b => !s.mem.permitted .read b) = true := by simpa using hread
  simp only [State.segOutcome, hpe, Nat.not_lt.2 hsel, Nat.not_lt.2 hin, ha, hany]
  rfl

/-- A readable descriptor decides by its present and segment bits (20_memory R134, R135). -/
theorem segOutcome_holds {b0 b1 b2 b3 b4 b5 b6 b7 : Byte} (hb : s.mem.holds a [b0, b1, b2, b3, b4, b5, b6, b7]) :
    s.segOutcome old sel =
      if b5.getLsbD 7 = true ∧ b5.getLsbD 4 = true then some (segOfBytes sel b0 b1 b2 b3 b4 b5 b6 b7) else none := by
  have hany : (span 8 a).any (fun b => !s.mem.permitted .read b) = false := by
    refine List.any_eq_false.2 fun b hmem => ?_
    obtain ⟨k, hk, rfl⟩ := mem_span.1 hmem
    simp [(Memory.holds_getElem hb hk).1]
  have hbyte := fun (k : Nat) (hk : k < 8) => (Memory.holds_getElem hb hk).2
  simp only [State.segOutcome, hpe, Nat.not_lt.2 hsel, Nat.not_lt.2 hin, BitVec.ofNat_add, ← BitVec.add_assoc, ha, hany,
    hbyte 0 (by decide), hbyte 1 (by decide), hbyte 2 (by decide), hbyte 3 (by decide), hbyte 4 (by decide),
    hbyte 5 (by decide), hbyte 6 (by decide), hbyte 7 (by decide)]
  rfl

end Outcome

/-! ### The instructions that load a data or stack segment register -/

section Touched

variable {s u : State}

theorem placeVal_of_onlyTouched (h : s.paged = true) (hu : s.onlyTouched u) (w : Width) (p : Place) :
    u.placeVal w p = s.placeVal w p := by
  have hio := State.paged_io h
  obtain ⟨m, rfl, hkept, -⟩ := hu
  cases p with
  | reg r => rfl
  | mem g off =>
    rw [placeVal_mem, placeVal_mem, segVal_paged hio, segVal_paged (s := s.setMem m) hio]
    exact Memory.val_of_kept hkept _ _

theorem segOutcome_of_onlyTouched (hu : s.onlyTouched u) (old : SegReg) (sel : BitVec 16) :
    u.segOutcome old sel = s.segOutcome old sel := by
  obtain ⟨m, rfl, hkept, -⟩ := hu
  have hdata : ∀ b, m.dataAt b = s.mem.dataAt b := fun b => (hkept b (by simp)).2.1
  have hperm : ∀ b, m.permitted .read b = s.mem.permitted .read b := Memory.permitted_of_kept hkept _
  simp only [State.segOutcome, State.pe, State.setMem_sys, State.setMem_mem, hdata, hperm]

/-- A raise after reads leaves what `State.raised` says (60_exceptions R650, R651). -/
theorem raised_of_onlyTouched (hu : s.onlyTouched u) (x : Exn) : s.raised (u.raise x) x.pending := by
  obtain ⟨m, rfl, hkept, -⟩ := hu
  refine ⟨⟨rfl, rfl, rfl, rfl, rfl⟩, rfl, rfl, rfl, rfl, rfl, hkept, rfl, rfl, ?_⟩
  show some (s.intr.pending.getD x.pending) = _
  cases s.intr.pending <;> rfl

theorem farTouch_only (h : s.paged = true) (m : MemRef) : s.onlyTouched (s.farTouch m) :=
  have h1 := placeTouch_only h s.osz.width (s.eaPlace m 0)
  onlyTouched_trans h1 (placeTouch_only (onlyTouched_paged h h1) _ _)

theorem farSel_eq (h : s.paged = true) (m : MemRef) : s.farSel m = s.eaVal .b16 m s.osz.width.bytes := by
  have hbytes : s.osz.bytes = s.osz.width.bytes := by cases s.osz <;> rfl
  rw [State.farSel, hbytes]
  exact placeVal_of_onlyTouched h (placeTouch_only h _ _) _ _

end Touched

/-- Instruction `i` reads, loads segment register `g` with the selector `sel`, and where that succeeds leaves the general
registers as `regs` says of the record loaded. -/
def State.loads (s : State) (i : Instr) (g : Seg) (sel : BitVec 16) (regs : SegReg → Bank) : Prop :=
  ∃ u k, s.onlyTouched u ∧ exec i s = .next (loadSeg g sel u k) ∧
    ∀ m v, k ((s.setMem m).setSegs (s.segs.set g v)) = ((s.setMem m).setSegs (s.segs.set g v)).setRegs (regs v)

section Forms

variable {s : State} {i : Instr} {g : Seg} {sel : BitVec 16} {regs : SegReg → Bank}

theorem loads_movToSeg (h : s.paged = true) (g : Seg) (rm : RM) :
    s.loads (.movToSeg g rm) g (s.rmVal .b16 rm) fun _ => s.regs :=
  ⟨_, id, rmTouch_only h .b16 rm, rfl, fun _ _ => rfl⟩

/-- POP of a segment register releases the stack by the size of the SS then loaded (41_data_movement R338; log entry
16). -/
theorem loads_popSeg (h : s.paged = true) (g : Seg) :
    s.loads (.popSeg g) g ((s.stackAt s.osz.width 0).setWidth 16)
      fun v => (s.segs.set g v).ss.releasedIn s.regs s.osz.width.bytes := by
  refine ⟨_, State.adjustSp (BitVec.ofNat 32 s.osz.width.bytes), segTouch_only h s.osz.width .ss s.sp, ?_,
    fun _ _ => adjustSp_released _ rfl⟩
  rw [← top_stackAt (State.paged_io h)]
  rfl

/-- LDS and its like write the offset after the load (41_data_movement R344). -/
theorem loads_far (h : s.paged = true) {r : Num8} {m : MemRef} (hi : exec i s = .next (s.loadFar g r m)) :
    s.loads i g (s.eaVal .b16 m s.osz.width.bytes) fun _ => s.regs.setRn s.osz.width r (s.eaVal s.osz.width m 0) := by
  rw [← farSel_eq h]
  exact ⟨_, _, farTouch_only h m, hi, fun _ _ => rfl⟩

/-- What is released is a matter of the size of the stack segment (41_data_movement R331). -/
theorem SegReg.releasedIn_congr {g g' : SegReg} (h : g'.size = g.size) (b : Bank) (k : Nat) :
    g'.releasedIn b k = g.releasedIn b k := by
  unfold SegReg.releasedIn
  rw [h]

/-- The load succeeds. -/
theorem completes_loaded (h : s.paged = true) (hl : s.loads i g sel regs) {v : SegReg}
    (hv : s.segOutcome (s.segs.get g) sel = some v) :
    completes i s fun t => s.sameButSegs t ∧ t.regs = regs v ∧ t.eip = s.eip ∧ t.flags = s.flags ∧
      s.mem.kept t.mem ∧ t.segs = s.segs.set g v := by
  obtain ⟨u, k, hu, hexec, hk⟩ := hl
  have hload : u.segLoad (u.segs.get g) sel = some v := by
    rw [segLoad_eq_segOutcome (onlyTouched_paged h hu), segOutcome_of_onlyTouched hu, ← hv]
    obtain ⟨m, rfl, -⟩ := hu
    rfl
  obtain ⟨m, ht, hkept, -⟩ := onlyTouched_trans hu (segLoadTouch_only (onlyTouched_paged h hu) sel)
  rw [loadSeg_some hload, ht] at hexec
  exact ⟨_, hexec.trans (congrArg _ (hk m v)), ⟨⟨rfl, rfl, rfl, rfl, rfl⟩, rfl, rfl⟩, rfl, rfl, rfl, hkept, rfl⟩

/-- The load raises #GP with the selector, and no register is written (20_memory R136). -/
theorem completes_refused (h : s.paged = true) (hl : s.loads i g sel regs)
    (hv : s.segOutcome (s.segs.get g) sel = none) :
    completes i s fun t => s.raised t ⟨13, .fault, true, true, sel.setWidth 32⟩ := by
  obtain ⟨u, k, hu, hexec, -⟩ := hl
  have hload : u.segLoad (u.segs.get g) sel = none := by
    rw [segLoad_eq_segOutcome (onlyTouched_paged h hu), segOutcome_of_onlyTouched hu, ← hv]
    obtain ⟨m, rfl, -⟩ := hu
    rfl
  rw [loadSeg_none hload] at hexec
  exact ⟨_, hexec, raised_of_onlyTouched
    (onlyTouched_trans hu (segLoadTouch_only (onlyTouched_paged h hu) sel)) (.gp (sel.setWidth 32))⟩

end Forms

/-- Settles O41: in real mode the outcome of every load is `inReal`, which keeps the size of the stack. -/
theorem realModeSegmentLoads : Obligations.RealModeSegmentLoads := by
  unfold Obligations.RealModeSegmentLoads
  intro g r rm m s _ h hpe
  have hdone {i g sel regs} (hl : s.loads i g sel regs) : completes i s fun t =>
      (s.sameButSegs t ∧ t.eip = s.eip ∧ t.flags = s.flags ∧ s.mem.kept t.mem ∧
        t.segs = s.segs.set g ((s.segs.get g).inReal sel)) ∧ t.regs = regs ((s.segs.get g).inReal sel) := by
    obtain ⟨t, ht, hsame, hregs, heip, hflags, hmem, hsegs⟩ := completes_loaded h hl (segOutcome_real _ sel hpe)
    exact ⟨t, ht, ⟨hsame, heip, hflags, hmem, hsegs⟩, hregs⟩
  refine ⟨hdone (loads_movToSeg h g rm), ?_, ?_⟩
  · have hpop := hdone (loads_popSeg h g)
    rwa [SegReg.releasedIn_congr (size_set_inReal s.segs g _)] at hpop
  · simp only [List.forall_mem_cons, List.not_mem_nil, false_imp_iff, implies_true, and_true]
    exact ⟨hdone (loads_far h rfl), hdone (loads_far h rfl), hdone (loads_far h rfl), hdone (loads_far h rfl),
      hdone (loads_far h rfl)⟩

/-- Settles O42: the cases are those of `segOutcome`, for each form alike. -/
theorem protectedSegmentLoad : Obligations.ProtectedSegmentLoad := by
  unfold Obligations.ProtectedSegmentLoad
  intro g r rm m s _ h hpe w offsetTo psel forms c hc sel base limit offset a loaded refused
  have hl : s.loads c.1 c.2.1 sel c.2.2.2 := by
    have hall : ∀ c ∈ forms, s.loads c.1 c.2.1 c.2.2.1 c.2.2.2 := by
      simp only [forms, List.forall_mem_cons, List.not_mem_nil, false_imp_iff, implies_true, and_true]
      exact ⟨loads_movToSeg h g rm, loads_popSeg h g, loads_far h rfl, loads_far h rfl, loads_far h rfl,
        loads_far h rfl, loads_far h rfl⟩
    exact hall c hc
  refine ⟨fun hnull => completes_loaded h hl (segOutcome_null hpe hnull),
    fun hsel hout => completes_refused h hl (segOutcome_outside hpe hsel hout),
    fun hsel hin hread => completes_refused h hl (segOutcome_unreadable hpe hsel hin rfl hread),
    fun hsel hin b0 b1 b2 b3 b4 b5 b6 b7 hb => ?_⟩
  have ho := segOutcome_holds (old := s.segs.get c.2.1) hpe hsel hin rfl hb
  refine ⟨fun hp hseg => completes_loaded h hl (ho.trans (if_pos ⟨hp, hseg⟩)),
    fun hno => completes_refused h hl (ho.trans (if_neg ?_))⟩
  rintro ⟨hp, hseg⟩
  rw [hp, hseg] at hno
  simp at hno

end Sys2Proof.Machine

/-! PROOFS. The decoder and the encoder are inverse (30_encoding R171, R173, R183 to R206): an operand that the encoder
wrote is read back; then each instruction, by the opcode byte that its encoding begins with. -/

namespace Sys2Proof

/-! ### Bit fields -/

@[simp] theorem Num8.ofBits_bits (n : Num8) : Num8.ofBits n.bits = n := by cases n <;> rfl

@[simp] theorem lowField_fieldByte (top : BitVec 2) (mid low : Num8) : lowField (fieldByte top mid low) = low := by
  unfold lowField fieldByte
  rw [show (top ++ mid.bits ++ low.bits).extractLsb' 0 3 = low.bits from BitVec.extractLsb'_append_eq_right,
    Num8.ofBits_bits]

@[simp] theorem midField_fieldByte (top : BitVec 2) (mid low : Num8) : midField (fieldByte top mid low) = mid := by
  unfold midField fieldByte
  have h : (top ++ mid.bits ++ low.bits).extractLsb' 3 3 = mid.bits := by
    rw [BitVec.extractLsb'_append_eq_of_le (by decide)]
    exact BitVec.extractLsb'_append_eq_right
  rw [h, Num8.ofBits_bits]

@[simp] theorem topField_fieldByte (top : BitVec 2) (mid low : Num8) : topField (fieldByte top mid low) = top := by
  unfold topField fieldByte
  rw [BitVec.extractLsb'_append_eq_of_le (by decide)]
  exact BitVec.extractLsb'_append_eq_left

@[simp] theorem Seg.ofNum?_num (s : Seg) : Seg.ofNum? s.num = some s := by cases s <;> rfl

/-! ### Operands -/

section Operands

variable (rest : List Byte)

@[simp] theorem withByte_cons (b : Byte) (k : Byte → List Byte → Dec) : withByte (b :: rest) k = k b rest := rfl

@[simp] theorem with16_enc16 (v : BitVec 16) (k : BitVec 16 → List Byte → Dec) :
    with16 (enc16 v ++ rest) k = k v rest :=
  congrArg (k · rest) (Machine.append_bytes16 v)

@[simp] theorem with32_enc32 (v : Word) (k : Word → List Byte → Dec) : with32 (enc32 v ++ rest) k = k v rest :=
  congrArg (k · rest) (Machine.append_bytes32 v)

theorem withIz_encIz {o : Sz} {z : Iz} (h : z.wf o = true) (k : Iz → List Byte → Dec) :
    withIz o (encIz z ++ rest) k = k z rest := by
  cases z <;> obtain rfl := of_decide_eq_true h <;> simp [withIz, encIz]

theorem withMoffs_encMoffs {a : Sz} {o : Moffs} (h : o.wf a = true) (k : Moffs → List Byte → Dec) :
    withMoffs a (encMoffs o ++ rest) k = k o rest := by
  cases o <;> obtain rfl := of_decide_eq_true h <;> simp [withMoffs, encMoffs]

theorem withFar_encFar {o : Sz} {p : FarPtr} (h : p.off.wf o = true) (k : FarPtr → List Byte → Dec) :
    withFar o (encFar p ++ rest) k = k p rest := by
  simp [withFar, encFar, withIz_encIz _ h]

@[simp] theorem withDisp16_bytes (d : Disp16) (k : Disp16 → List Byte → Dec) :
    withDisp16 d.md (d.bytes ++ rest) k = k d rest := by
  cases d <;> simp [withDisp16, Disp16.md, Disp16.bytes]

@[simp] theorem withDisp32_bytes (d : Disp32) (k : Disp32 → List Byte → Dec) :
    withDisp32 d.md (d.bytes ++ rest) k = k d rest := by
  cases d <;> simp [withDisp32, Disp32.md, Disp32.bytes]

/-- The `mod` field of a displacement is never that of a register form, and 0 only where there is none. -/
theorem Disp16.md_ne (d : Disp16) : d.md ≠ 3#2 ∧ (d.isSome = true → d.md ≠ 0#2) := by
  cases d <;> simp [Disp16.md, Disp16.isSome]

theorem Disp32.md_ne (d : Disp32) : d.md ≠ 3#2 ∧ (d.isSome = true → d.md ≠ 0#2) := by
  cases d <;> simp [Disp32.md, Disp32.isSome]

/-- ModRM, SIB and displacement are read back, row by row of the address-mode tables (30_encoding R183 to R189). -/
theorem withModRm_encModRm {a : Sz} {rm : RM} (h : rm.wf a = true) (r : Num8) (k : Num8 → RM → List Byte → Dec) :
    withModRm a (encModRm r rm ++ rest) k = k r rm rest := by
  cases rm with
  | reg => simp [encModRm, withModRm]
  | mem m =>
    simp only [RM.wf] at h
    cases m with
    | m16 b d =>
      simp only [MemRef.wf, Bool.and_eq_true, Bool.or_eq_true, decide_eq_true_eq] at h
      obtain ⟨rfl, hd⟩ := h
      have habs : ¬(d.md = 0#2 ∧ b = .n6) := fun ⟨h0, h6⟩ => hd.elim (absurd h6) fun hs => d.md_ne.2 hs h0
      simp [encModRm, withModRm, withMem, d.md_ne.1, habs]
    | abs16 => obtain rfl := of_decide_eq_true h; simp [encModRm, withModRm, withMem]
    | m32 b d =>
      simp only [MemRef.wf, Bool.and_eq_true, Bool.or_eq_true, decide_eq_true_eq] at h
      obtain ⟨⟨rfl, hsib⟩, hd⟩ := h
      have habs : ¬(d.md = 0#2 ∧ b = .n5) := fun ⟨h0, h5⟩ => hd.elim (absurd h5) fun hs => d.md_ne.2 hs h0
      simp [encModRm, withModRm, withMem, d.md_ne.1, hsib, habs]
    | abs32 => obtain rfl := of_decide_eq_true h; simp [encModRm, withModRm, withMem]
    | sib b i ss d =>
      simp only [MemRef.wf, Bool.and_eq_true, Bool.or_eq_true, decide_eq_true_eq] at h
      obtain ⟨rfl, hd⟩ := h
      have habs : ¬(d.md = 0#2 ∧ b = .n5) := fun ⟨h0, h5⟩ => hd.elim (absurd h5) fun hs => d.md_ne.2 hs h0
      simp [encModRm, withModRm, withMem, d.md_ne.1, habs]
    | sibAbs => obtain rfl := of_decide_eq_true h; simp [encModRm, withModRm, withMem]

end Operands

/-! ### Instructions -/

/-- The decoder `p` reads exactly the bytes `l` as the instruction `i`, whatever follows them. -/
def Reads (l : List Byte) (i : Instr) (p : List Byte → Dec) : Prop := ∀ rest, p (l ++ rest) = got i rest

namespace Reads

variable {m : DecMode} {i : Instr} {l : List Byte} {o a : Sz} {r : Num8} {rm : RM} {z : Iz} {v : Byte}

/-- An opcode of the one-byte map (30_encoding R201). -/
theorem one {op : Byte} (h : Reads l i (decodeOne m op)) : Reads (op :: l) i (decode m) := h

/-- An opcode of the two-byte map (30_encoding R202). -/
theorem two {op : Byte} (h : Reads l i fun bs => decodeTwo m (op :: bs)) : Reads (0x0F :: op :: l) i (decode m) := h

theorem imm16 {u : BitVec 16} (f : BitVec 16 → Instr) :
    Reads (enc16 u) (f u) fun bs => with16 bs fun u => got (f u) :=
  fun rest => with16_enc16 rest u _

theorem imm16Ib {u : BitVec 16} (f : BitVec 16 → Byte → Instr) :
    Reads (enc16 u ++ [v]) (f u v) fun bs => with16 bs fun u bs => withByte bs fun v => got (f u v) :=
  fun rest => with16_enc16 (v :: rest) u _

theorem iz (f : Iz → Instr) (h : z.wf o = true) : Reads (encIz z) (f z) fun bs => withIz o bs fun z => got (f z) :=
  fun rest => withIz_encIz rest h _

theorem moffs {z : Moffs} (f : Moffs → Instr) (h : z.wf a = true) :
    Reads (encMoffs z) (f z) fun bs => withMoffs a bs fun z => got (f z) :=
  fun rest => withMoffs_encMoffs rest h _

theorem far {p : FarPtr} (f : FarPtr → Instr) (h : p.off.wf o = true) :
    Reads (encFar p) (f p) fun bs => withFar o bs fun p => got (f p) :=
  fun rest => withFar_encFar rest h _

/-- A ModRM operand, then what `k` reads. -/
theorem group (k : Num8 → RM → List Byte → Dec) (h : rm.wf a = true) (hk : Reads l i (k r rm)) :
    Reads (encModRm r rm ++ l) i fun bs => withModRm a bs k := fun rest => by
  rw [List.append_assoc]
  exact (withModRm_encModRm _ h r k).trans (hk rest)

/-- A ModRM operand that ends the instruction. -/
theorem groupEnd (k : Num8 → RM → List Byte → Dec) (h : rm.wf a = true) (hk : Reads [] i (k r rm)) :
    Reads (encModRm r rm) i fun bs => withModRm a bs k := by
  simpa using group k h hk

theorem modRm (f : Num8 → RM → Instr) (h : rm.wf a = true) :
    Reads (encModRm r rm) (f r rm) fun bs => withModRm a bs fun r rm => got (f r rm) :=
  groupEnd _ h fun _ => rfl

theorem modRmIb (f : Num8 → RM → Byte → Instr) (h : rm.wf a = true) :
    Reads (encModRm r rm ++ [v]) (f r rm v) fun bs =>
      withModRm a bs fun r rm bs => withByte bs fun v => got (f r rm v) :=
  group _ h fun _ => rfl

theorem modRmIz (f : Num8 → RM → Iz → Instr) (h : (rm.wf a && z.wf o) = true) :
    Reads (encModRm r rm ++ encIz z) (f r rm z) fun bs =>
      withModRm a bs fun r rm bs => withIz o bs fun z => got (f r rm z) := by
  obtain ⟨hrm, hz⟩ := Bool.and_eq_true_iff.1 h
  exact group _ hrm (iz (f r rm) hz)

/-- An operand that is memory only (30_encoding R206). -/
theorem mem {mem : MemRef} {u : UdOp} (f : Num8 → MemRef → Instr) (h : mem.wf a = true) :
    Reads (encModRm r (.mem mem)) (f r mem) fun bs => withModRmMem a u bs fun r mem => got (f r mem) :=
  groupEnd _ h fun _ => rfl

/-- The register numbers of MOV to and from control and debug registers (45_system R600). -/
theorem crDr {n : Num8} (f : Num8 → Num8 → Instr) :
    Reads [fieldByte 3 n r] (f n r) fun bs => withCrDr bs fun n r => got (f n r) := fun rest => by
  simp [withCrDr]

end Reads

section Families
variable {m : DecMode}

theorem opRow_fieldByte (op c : Num8) : opRow (fieldByte 0 op c) = op.bits.toNat := by
  cases op <;> cases c <;> rfl

/-- A column of the ALU block, whose rows are the eight operations (30_encoding R201). -/
theorem Reads.alu {op c : Num8} {l : List Byte} {i : Instr}
    (h : ∀ rest, Reads l i fun bs => decAluRow m op c bs rest) : Reads (fieldByte 0 op c :: l) i (decode m) := by
  refine .one fun tail => ?_
  simp only [decodeOne, opRow_fieldByte, lowField_fieldByte]
  cases op <;> exact h _ tail

theorem reads_alu (n : Num8) {f : AluForm} (h : f.wf m = true) : Reads (encAlu n f) (aluInstr n f) (decode m) := by
  cases f with
  | rmR w => cases w <;> exact .alu fun _ => .modRm (fun r rm => aluInstr n (.rmR _ rm r)) h
  | rRm w => cases w <;> exact .alu fun _ => .modRm (fun r rm => aluInstr n (.rRm _ r rm)) h
  | accIb v => exact .alu fun _ _ => rfl
  | accIz z => exact .alu fun _ => .iz (fun z => aluInstr n (.accIz z)) h
  | ebIb rm v => exact .one (.modRmIb (fun n rm v => aluInstr n (.ebIb rm v)) h)
  | evIz rm z => exact .one (.modRmIz (fun n rm z => aluInstr n (.evIz rm z)) h)
  | evIb rm v => exact .one (.modRmIb (fun n rm v => aluInstr n (.evIb rm v)) h)

theorem reads_test {f : TestForm} (h : f.wf m = true) : Reads (encTest f) (.test f) (decode m) := by
  cases f with
  | rmR w => cases w <;> exact .one (.modRm (fun r rm => .test (.rmR _ rm r)) h)
  | accIb v => exact fun _ => rfl
  | accIz z => exact .one (.iz (fun z => .test (.accIz z)) h)
  | ebIb rm v => exact .one (.group (decGroup3 m .b) h fun _ => rfl)
  | evIz rm z =>
    obtain ⟨hrm, hz⟩ := Bool.and_eq_true_iff.1 h
    exact .one (.group (decGroup3 m .v) hrm (.iz (fun z => .test (.evIz rm z)) hz))

/-- Where a column of a row reads on in a way that has no name of its own, `delta` shows it. -/
theorem reads_mov {f : MovForm} (h : f.wf m = true) : Reads (encMov f) (.mov f) (decode m) := by
  cases f with
  | rmR w => cases w <;> exact .one (.modRm (fun r rm => .mov (.rmR _ rm r)) h)
  | rRm w => cases w <;> exact .one (.modRm (fun r rm => .mov (.rRm _ r rm)) h)
  | ebIb rm v => exact .one (show Reads _ _ (decRowC0 m .n6) by delta decRowC0; exact .group _ h fun _ => rfl)
  | evIz rm z =>
    obtain ⟨hrm, hz⟩ := Bool.and_eq_true_iff.1 h
    exact .one (show Reads _ _ (decRowC0 m .n7) by
      delta decRowC0; exact .group _ hrm (.iz (fun z => .mov (.evIz rm z)) hz))
  | rIb r => cases r <;> exact fun _ => rfl
  | rIz r => cases r <;> exact .one (.iz (fun z => .mov (.rIz _ z)) h)
  | accOff w => cases w <;> exact .one (.moffs (fun z => .mov (.accOff _ z)) h)
  | offAcc w => cases w <;> exact .one (.moffs (fun z => .mov (.offAcc _ z)) h)

theorem reads_push {f : PushForm} (h : f.wf m = true) : Reads (encPush f) (.push f) (decode m) := by
  cases f with
  | seg s => cases s <;> exact fun _ => rfl
  | reg r => cases r <;> exact fun _ => rfl
  | iz z => exact .one (.iz (fun z => .push (.iz z)) h)
  | ib v => exact fun _ => rfl
  | ev rm => exact .one (.groupEnd decGroup5 h fun _ => rfl)

/-- The one-operand opcodes F6 and F7: group 3 (30_encoding R204). -/
theorem reads_f6 {n : Num8} {w : OpW} {rm : RM} {i : Instr} (h : rm.wf m.ads = true)
    (hi : decGroup3 m w n rm = got i) : Reads (encF6 n w rm) i (decode m) := by
  cases w <;> exact .one (.groupEnd (decGroup3 m _) h fun rest => congrFun hi rest)

theorem reads_shift (n : Num8) {w : OpW} {rm : RM} {c : ShCount} (h : rm.wf m.ads = true) :
    Reads (encShift n w rm c) (shiftInstr n w rm c) (decode m) := by
  cases w <;> cases c with
  | imm v => exact .one (.modRmIb (fun n rm v => shiftInstr n _ rm (.imm v)) h)
  | one => exact .one (.modRm (fun n rm => shiftInstr n _ rm .one) h)
  | cl => exact .one (.modRm (fun n rm => shiftInstr n _ rm .cl) h)

/-- SHLD and SHRD (42_arithmetic_logic R428, R429), where the two second bytes are theirs. -/
theorem reads_dshift {opImm opCl : Byte} {rm : RM} {r : Num8} {c : DShCount} (f : RM → Num8 → DShCount → Instr)
    (himm : (fun bs => decodeTwo m (opImm :: bs)) =
      fun bs => withModRm m.ads bs fun r rm bs => withByte bs fun v => got (f rm r (.imm v)))
    (hcl : (fun bs => decodeTwo m (opCl :: bs)) = fun bs => withModRm m.ads bs fun r rm => got (f rm r .cl))
    (h : rm.wf m.ads = true) : Reads (encDShift opImm opCl rm r c) (f rm r c) (decode m) := by
  cases c with
  | imm v => exact .two (himm ▸ .modRmIb (fun r rm v => f rm r (.imm v)) h)
  | cl => exact .two (hcl ▸ .modRm (fun r rm => f rm r .cl) h)

/-- BT, BTS, BTR and BTC (42_arithmetic_logic R430), where the second byte and the `/n` of group 8 are theirs. -/
theorem reads_bit {op : Byte} {n : Num8} {rm : RM} {i : BitIdx} (f : RM → BitIdx → Instr)
    (hreg : (fun bs => decodeTwo m (op :: bs)) = fun bs => withModRm m.ads bs fun r rm => got (f rm (.reg r)))
    (himm : ∀ rm, decGroup8 n rm = fun bs => withByte bs fun v => got (f rm (.imm v)))
    (h : rm.wf m.ads = true) : Reads (encBit op n rm i) (f rm i) (decode m) := by
  cases i with
  | reg r => exact .two (hreg ▸ .modRm (fun r rm => f rm (.reg r)) h)
  | imm v => exact .two (.group decGroup8 h (himm rm ▸ fun _ => rfl))

theorem reads_jcc (c : Cond) {rel : Rel} (h : rel.wf m.os = true) :
    Reads (encJcc c rel) (jccInstr c rel) (decode m) := by
  cases rel with
  | short v => cases c <;> exact fun _ => rfl
  | near z => cases c <;> exact .two (.iz (fun z => jccInstr _ (.near z)) h)

theorem reads_setcc (c : Cond) {rm : RM} (h : rm.wf m.ads = true) :
    Reads (encSetcc c rm) (setccInstr c rm) (decode m) := by
  cases c <;> exact .two (.modRm (fun _ rm => setccInstr _ rm) h)


/-! ### Illegal encodings (30_encoding R203 to R206) -/

theorem decGroup4_illegal {reg : Num8} {rm : RM} (h : UdOp.grp4.illegal reg rm = true) :
    decGroup4 reg rm = got (.ud (.slot .grp4 reg rm)) := by
  cases reg with
  | n0 | n1 => cases h
  | _ => rfl

theorem decGroup5_illegal {reg : Num8} {rm : RM} (h : UdOp.grp5.illegal reg rm = true) :
    decGroup5 reg rm = got (.ud (.slot .grp5 reg rm)) := by
  cases reg with
  | n3 | n5 => cases rm with
    | reg => rfl
    | mem => cases h
  | n7 => rfl
  | _ => cases h

theorem decGroup6_illegal {reg : Num8} {rm : RM} (h : UdOp.grp6.illegal reg rm = true) :
    decGroup6 reg rm = got (.ud (.slot .grp6 reg rm)) := by
  cases reg with
  | n0 | n1 | n2 | n3 => cases h
  | _ => rfl

theorem decGroup7_illegal {reg : Num8} {rm : RM} (h : UdOp.grp7.illegal reg rm = true) :
    decGroup7 reg rm = got (.ud (.slot .grp7 reg rm)) := by
  cases reg with
  | n0 | n1 | n2 | n3 => cases rm with
    | reg => rfl
    | mem => cases h
  | n4 | n6 => cases h
  | _ => rfl

theorem decGroup8_illegal {reg : Num8} {rm : RM} (h : UdOp.grp8.illegal reg rm = true) :
    decGroup8 reg rm = got (.ud (.slot .grp8 reg rm)) := by
  cases reg with
  | n0 | n1 | n2 | n3 => rfl
  | _ => cases h

/-- Where an opcode admits memory only, its register forms are illegal. -/
theorem Reads.memIllegal {a : Sz} {r : Num8} {rm : RM} {u : UdOp} (k : Num8 → MemRef → List Byte → Dec)
    (h : rm.isReg = true) : Reads (encModRm r rm) (.ud (.slot u r rm)) fun bs => withModRmMem a u bs k := by
  cases rm with
  | reg => exact .groupEnd _ rfl fun _ => rfl
  | mem => cases h

theorem reads_slot {op : UdOp} {reg : Num8} {rm : RM} (hrm : rm.wf m.ads = true) (h : op.illegal reg rm = true) :
    Reads (op.bytes ++ encModRm reg rm) (.ud (.slot op reg rm)) (decode m) := by
  cases op with
  | bound => exact .one (.memIllegal (fun r mem => got (.bound r mem)) h)
  | lea => exact .one (.memIllegal (fun r mem => got (.lea r mem)) h)
  | les => exact .one (.memIllegal (fun r mem => got (.les r mem)) h)
  | lds => exact .one (.memIllegal (fun r mem => got (.lds r mem)) h)
  | lss => exact .two (.memIllegal (fun r mem => got (.lss r mem)) h)
  | lfs => exact .two (.memIllegal (fun r mem => got (.lfs r mem)) h)
  | lgs => exact .two (.memIllegal (fun r mem => got (.lgs r mem)) h)
  | grp4 => exact .one (.groupEnd decGroup4 hrm fun _ => congrFun (decGroup4_illegal h) _)
  | grp5 => exact .one (.groupEnd decGroup5 hrm fun _ => congrFun (decGroup5_illegal h) _)
  | grp6 => exact .two (.groupEnd decGroup6 hrm fun _ => congrFun (decGroup6_illegal h) _)
  | grp7 => exact .two (.groupEnd decGroup7 hrm fun _ => congrFun (decGroup7_illegal h) _)
  | grp8 => exact .two (.groupEnd decGroup8 hrm fun _ => congrFun (decGroup8_illegal h) _)
  | lar => exact .two (.modRm (fun r rm => .ud (.slot .lar r rm)) hrm)
  | lsl => exact .two (.modRm (fun r rm => .ud (.slot .lsl r rm)) hrm)
  | movFromSeg =>
    refine .one ?_
    change Reads _ _ (decRow88 m .n4)
    delta decRow88
    refine .groupEnd _ hrm fun rest => ?_
    cases reg with
    | n6 | n7 => rfl
    | _ => cases h
  | movToSeg =>
    refine .one ?_
    change Reads _ _ (decRow88 m .n6)
    delta decRow88
    refine .groupEnd _ hrm fun rest => ?_
    cases reg with
    | n1 | n6 | n7 => rfl
    | _ => cases h
  | popRm =>
    refine .one ?_
    change Reads _ _ (decRow88 m .n7)
    delta decRow88
    exact .groupEnd _ hrm fun _ => if_neg (of_decide_eq_true h)
  | movEbIb =>
    refine .one ?_
    change Reads _ _ (decRowC0 m .n6)
    delta decRowC0
    exact .groupEnd _ hrm fun _ => if_neg (of_decide_eq_true h)
  | movEvIz =>
    refine .one ?_
    change Reads _ _ (decRowC0 m .n7)
    delta decRowC0
    exact .groupEnd _ hrm fun _ => if_neg (of_decide_eq_true h)

/-- The columns of each row of the two-byte map that 30_encoding R202 does not list. -/
def unlistedColumns : Nat → List Num8
  | 0x00 => [.n4, .n5, .n7]
  | 0x04 => [.n4, .n5, .n6, .n7]
  | 0x06 => [.n1, .n3, .n4, .n5, .n6, .n7]
  | 0x10 | 0x11 | 0x12 | 0x13 => []
  | 0x14 => [.n2, .n6, .n7]
  | 0x15 => [.n2, .n6]
  | 0x16 | 0x17 => [.n0, .n1]
  | _ => [.n0, .n1, .n2, .n3, .n4, .n5, .n6, .n7]

theorem mem_unlistedColumns : ∀ op : Byte,
    lowField op ∈ unlistedColumns (opRow op) ↔ admittedSecond.contains op = false := by
  decide +kernel

theorem decodeTwo_unlisted {op : Byte} (h : lowField op ∈ unlistedColumns (opRow op)) (bs : List Byte) :
    decodeTwo m (op :: bs) = got (.ud (.two op)) bs := by
  unfold decodeTwo
  rw [withByte_cons]
  generalize lowField op = c at h ⊢
  generalize opRow op = r at h ⊢
  dsimp only
  split <;> simp only [unlistedColumns, List.mem_cons, List.not_mem_nil, or_false] at h
  · rcases h with rfl | rfl | rfl <;> rfl
  · rcases h with rfl | rfl | rfl | rfl <;> rfl
  · rcases h with rfl | rfl | rfl | rfl | rfl | rfl <;> rfl
  · rcases h with rfl | rfl | rfl <;> rfl
  · rcases h with rfl | rfl <;> rfl
  · rcases h with rfl | rfl <;> rfl
  · rcases h with rfl | rfl <;> rfl
  · rfl

theorem reads_ud {f : UdForm} (h : f.wf m = true) : Reads (encUd f) (.ud f) (decode m) := by
  cases f with
  | opD6 | opF1 => exact fun _ => rfl
  | esc k => cases k <;> exact .one (.modRm (fun r rm => .ud (.esc _ r rm)) h)
  | two op =>
    have hop : admittedSecond.contains op = false := by simpa only [UdForm.wf, Bool.not_eq_true'] using h
    exact .two (decodeTwo_unlisted ((mem_unlistedColumns op).2 hop))
  | slot op reg rm =>
    obtain ⟨hrm, hill⟩ := Bool.and_eq_true_iff.1 h
    exact reads_slot hrm hill

/-! ### All instructions -/

/-- The encoding of an instruction that the sizes admit is read as that instruction, whatever follows. -/
theorem reads_encode {i : Instr} (h : i.wf m = true) : Reads (encode i) i (decode m) := by
  cases i with
  | pfxEs | pfxCs | pfxSs | pfxDs | pfxFs | pfxGs | pfxOpSize | pfxAdSize | pfxLock | pfxRepne | pfxRep
  | daa | das | aaa | aas | clc | stc | cmc | cld | std | leave | nop | xlat | lahf | sahf
  | ret | retf | int3 | into | movsb | cmpsb | scasb | lodsb | stosb | insb | outsb
  | hlt | cli | sti | wait | clts | rdmsr | wrmsr => exact fun _ => rfl
  | aam | aad | loop | loope | loopne | jcxz | int => exact fun _ => rfl
  | pusha | pushad | popa | popad | cbw | cwde | cwd | cdq | pushf | pushfd | popf | popfd | iret | iretd
  | movsw | movsd | cmpsw | cmpsd | scasw | scasd | lodsw | lodsd | stosw | stosd | insw | insd | outsw | outsd =>
    obtain ⟨os, ads⟩ := m
    obtain rfl : os = _ := of_decide_eq_true h
    exact fun _ => rfl
  | add f | or f | adc f | sbb f | and f | sub f | xor f | cmp f => exact reads_alu _ h
  | test f => exact reads_test h
  | inc f | dec f => cases f with
    | reg r => cases r <;> exact fun _ => rfl
    | e w rm => cases w with
      | b => exact .one (.groupEnd decGroup4 h fun _ => rfl)
      | v => exact .one (.groupEnd decGroup5 h fun _ => rfl)
  | not | neg | mul | imul | div | idiv => exact reads_f6 h rfl
  | imul2 => exact .two (.modRm .imul2 h)
  | imul3 r rm imm =>
    obtain ⟨hrm, hi⟩ := Bool.and_eq_true_iff.1 h
    cases imm with
    | iz z => exact .one (.modRmIz (fun r rm z => .imul3 r rm (.iz z)) h)
    | ib v => exact .one (.modRmIb (fun r rm v => .imul3 r rm (.ib v)) hrm)
  | rol | ror | rcl | rcr | shl | shr | sar => exact reads_shift _ h
  | shld => exact reads_dshift .shld rfl rfl h
  | shrd => exact reads_dshift .shrd rfl rfl h
  | bt => exact reads_bit .bt rfl (fun _ => rfl) h
  | bts => exact reads_bit .bts rfl (fun _ => rfl) h
  | btr => exact reads_bit .btr rfl (fun _ => rfl) h
  | btc => exact reads_bit .btc rfl (fun _ => rfl) h
  | bsf => exact .two (.modRm .bsf h)
  | bsr => exact .two (.modRm .bsr h)
  | mov f => exact reads_mov h
  | movFromSeg s rm =>
    refine .one ?_
    change Reads _ _ (decRow88 m .n4)
    delta decRow88
    exact .groupEnd _ h fun _ => by cases s <;> rfl
  | movToSeg s rm =>
    obtain ⟨hs, hrm⟩ := Bool.and_eq_true_iff.1 h
    refine .one ?_
    change Reads _ _ (decRow88 m .n6)
    delta decRow88
    refine .groupEnd _ hrm fun _ => ?_
    cases s with
    | cs => cases hs
    | _ => rfl
  | movFromCr => exact .two (.crDr fun n r => .movFromCr r n)
  | movToCr => exact .two (.crDr .movToCr)
  | movFromDr => exact .two (.crDr fun n r => .movFromDr r n)
  | movToDr => exact .two (.crDr .movToDr)
  | movzx w => cases w <;> exact .two (.modRm (.movzx _) h)
  | movsx w => cases w <;> exact .two (.modRm (.movsx _) h)
  | lea => exact .one (.mem .lea h)
  | push f => exact reads_push h
  | pop f => cases f with
    | reg r => cases r <;> exact fun _ => rfl
    | ev rm =>
      refine .one ?_
      change Reads _ _ (decRow88 m .n7)
      delta decRow88
      exact .groupEnd _ h fun _ => rfl
  | popSeg s => cases s with
    | cs => cases h
    | _ => exact fun _ => rfl
  | enter size level => exact .one (.imm16Ib .enter)
  | xchg f => cases f with
    | rmR w => cases w <;> exact .one (.modRm (fun r rm => .xchg (.rmR _ rm r)) h)
    | acc r => cases r with
      | n0 => cases h
      | _ => exact fun _ => rfl
  | lds => exact .one (.mem .lds h)
  | les => exact .one (.mem .les h)
  | lfs => exact .two (.mem .lfs h)
  | lgs => exact .two (.mem .lgs h)
  | lss => exact .two (.mem .lss h)
  | seto | setno | setb | setnb | setz | setnz | setbe | setnbe
  | sets | setns | setp | setnp | setl | setnl | setle | setnle => exact reads_setcc _ h
  | jo | jno | jb | jnb | jz | jnz | jbe | jnbe | js | jns | jp | jnp | jl | jnl | jle | jnle => exact reads_jcc _ h
  | jmp rel => cases rel with
    | short v => exact fun _ => rfl
    | near z => exact .one (.iz (fun z => .jmp (.near z)) h)
  | jmpRm | jmpFarMem | callRm | callFarMem => exact .one (.groupEnd decGroup5 h fun _ => rfl)
  | jmpFar => exact .one (.far .jmpFar h)
  | call => exact .one (.iz .call h)
  | callFar => exact .one (.far .callFar h)
  | retImm => exact .one (.imm16 .retImm)
  | retfImm => exact .one (.imm16 .retfImm)
  | bound => exact .one (.mem .bound h)
  | inp w p | outp w p => cases w <;> cases p <;> exact fun _ => rfl
  | arpl => exact .one (.modRm (fun r rm => .arpl rm r) h)
  | sldt | str | lldt | ltr => exact .two (.groupEnd decGroup6 h fun _ => rfl)
  | sgdt | sidt | lgdt | lidt | smsw | lmsw => exact .two (.groupEnd decGroup7 h fun _ => rfl)
  | ud f => exact reads_ud h

end Families

/-- Settles O5: each encoding, opcode and operands, is read back as the instruction it was written for. -/
theorem decodeOfEncodeIsSame : Obligations.DecodeOfEncodeIsSame := by
  unfold Obligations.DecodeOfEncodeIsSame
  exact fun m i rest h => reads_encode h rest

end Sys2Proof

/-! PROOFS. Prefixes and the instruction after them are one step (30_encoding R172, R175, 60_exceptions R681, R684):
what fetching bytes that end no run comes to, whatever is fetched after them; then the loop over prefixes. -/

namespace Sys2Proof.Machine

/-! ### Bytes that are fetched, permitted or as sentinels -/

/-- The state with the next `n` bytes fetched: EIP past them, their sticky bits set. -/
def State.past (n : Nat) (s : State) : State :=
  (s.setMem (s.mem.touchAll .fetch (span n s.fetchLin))).setEip (s.eip + BitVec.ofNat 32 n)

/-- The next `n` bytes end no run when fetched and lie below the top of the offset space (60_exceptions R684,
10_state R38). -/
def State.fetches (n : Nat) (s : State) : Prop :=
  (∀ b ∈ span n s.fetchLin, s.fetchReason b = 0) ∧ s.eip.toNat + n ≤ s.eipTop

/-- The default memory and no limit on the length of an instruction. -/
def State.plainFetch (s : State) : Prop := s.paged = true ∧ s.cfg.maxInsnBytes = none

variable {s t : State} {m n : Nat}

theorem fetchLin_past : (s.past n).fetchLin = s.fetchLin + BitVec.ofNat 32 n := (BitVec.add_assoc _ _ _).symm

theorem touchAll_append (mem : Memory) (k : Access) (as bs : List Word) :
    mem.touchAll k (as ++ bs) = (mem.touchAll k as).touchAll k bs := by
  induction as generalizing mem with
  | nil => rfl
  | cons a as ih => exact ih (mem.touch k a)

theorem past_add (s : State) (m n : Nat) : s.past (m + n) = (s.past m).past n := by
  have heip : s.eip + BitVec.ofNat 32 (m + n) = s.eip + BitVec.ofNat 32 m + BitVec.ofNat 32 n := by
    rw [BitVec.ofNat_add, BitVec.add_assoc]
  have hmem : (s.past m).mem.touchAll .fetch (span n (s.past m).fetchLin) =
      s.mem.touchAll .fetch (span (m + n) s.fetchLin) := by
    rw [span_add, touchAll_append, fetchLin_past]
    rfl
  unfold State.past at hmem ⊢
  rw [heip, hmem]
  rfl

theorem past_zero (s : State) : s.past 0 = s := by
  simp [State.past, span, Memory.touchAll, State.setMem, State.setEip]

theorem plainFetch_past (h : s.plainFetch) : (s.past n).plainFetch :=
  ⟨State.paged_iff.2 ⟨(State.paged_io h.1 : s.io = none), Memory.wf_touchAll (State.paged_wf h.1) _⟩, h.2⟩

theorem perms_past (h : s.plainFetch) (b : Word) : (s.past n).mem.perms b = s.mem.perms b :=
  Memory.perms_touchAll (State.paged_wf h.1) (by decide) _

/-- The permission nibble decides whether a refused fetch ends the run. -/
theorem fetchReason_congr {b : Word} (hp : t.mem.perms b = s.mem.perms b) (hc : t.cfg = s.cfg) :
    t.fetchReason b = s.fetchReason b := by
  have hbit (v : State) : (v.mem.attrAt b).getLsbD 2 = (v.mem.perms b).getLsbD 2 := by simp [Memory.perms]
  unfold State.fetchReason
  rw [Memory.permitted_congr hp, hbit, hbit, hp, hc]

theorem fetchReason_past (h : s.plainFetch) (b : Word) : (s.past n).fetchReason b = s.fetchReason b :=
  fetchReason_congr (perms_past h b) rfl

theorem fetchStop_eq (h : s.io = none) :
    s.fetchStop = if s.fetchReason s.fetchLin = 0 then none else some (s.fetchReason s.fetchLin) := by
  have hbit (v : Byte) : (v &&& 0x04 == 0) = decide (v.getLsbD 2 = false) := by
    revert v
    decide +kernel
  unfold State.fetchStop State.fetchReason
  rw [fetchRefused_paged h, Memory.fetchRefused]
  by_cases hp : s.mem.permitted .fetch s.fetchLin = true
  · simp [hp]
  · rw [if_neg hp, if_neg hp, hbit]
    by_cases hx : (s.mem.attrAt s.fetchLin).getLsbD 2 = false
    · rw [decide_eq_true hx, if_pos hx]
      cases s.cfg.runFlags.getLsbD 2 <;> rfl
    · rw [decide_eq_false hx, if_neg hx]
      cases s.cfg.runFlags.getLsbD 4 <;> rfl

theorem State.eipTop_lt (s : State) : s.eipTop < 2 ^ 32 := by
  unfold State.eipTop
  split <;> omega

theorem fetches_add (h : s.plainFetch) : s.fetches (m + n) ↔ s.fetches m ∧ (s.past m).fetches n := by
  have htop : (s.past m).eipTop = s.eipTop := rfl
  have hlt := s.eipTop_lt
  have heip (hm : s.eip.toNat + m ≤ s.eipTop) : (s.past m).eip.toNat = s.eip.toNat + m := by
    change (s.eip + BitVec.ofNat 32 m).toNat = _
    rw [BitVec.toNat_add, BitVec.toNat_ofNat, Nat.add_mod_mod, Nat.mod_eq_of_lt (by omega)]
  simp only [State.fetches, span_add, List.forall_mem_append, fetchLin_past, fetchReason_past h, htop]
  constructor
  · rintro ⟨⟨hm, hn⟩, hle⟩
    have := heip (by omega)
    exact ⟨⟨hm, by omega⟩, hn, by omega⟩
  · rintro ⟨⟨hm, hle⟩, hn, hle'⟩
    have := heip hle
    exact ⟨⟨hm, hn⟩, by omega⟩

/-- One byte that ends no run (30_encoding R172). -/
theorem fetchBytes_succ (h : s.plainFetch) (hf : s.fetches 1) : s.fetchBytes (n + 1) = (s.past 1).fetchBytes n := by
  obtain ⟨hreason, hle⟩ := hf
  have hstop : s.fetchStop = none := by
    rw [fetchStop_eq (State.paged_io h.1), if_pos (hreason _ (by simp [span]))]
  have htop : (s.setMem (s.mem.touch .fetch s.fetchLin)).atTop = false := atTop_false (s := s) (by omega)
  have hlong : (s.past 1).tooLong = false := by
    rw [State.tooLong, show (s.past 1).cfg.maxInsnBytes = none from h.2]
  rw [State.fetchBytes, fetchTouch_paged (State.paged_io h.1), hstop]
  dsimp only
  rw [htop, if_neg Bool.false_ne_true]
  change (if (s.past 1).tooLong = true then _ else State.fetchBytes n (s.past 1)) = _
  rw [hlong, if_neg Bool.false_ne_true]

theorem fetchBytes_past (h : s.plainFetch) (hf : s.fetches m) (n : Nat) :
    s.fetchBytes (m + n) = (s.past m).fetchBytes n := by
  induction m generalizing s with
  | zero => rw [past_zero, Nat.zero_add]
  | succ m ih =>
    rw [Nat.add_comm m 1] at hf ⊢
    obtain ⟨h1, hm⟩ := (fetches_add h).1 hf
    rw [past_add, ← ih (plainFetch_past h) hm, Nat.add_assoc, Nat.add_comm 1, fetchBytes_succ h h1]

/-- A byte whose refusal ends the run (60_exceptions R684). -/
theorem fetchBytes_stopped (h : s.plainFetch) (hr : s.fetchReason s.fetchLin ≠ 0) :
    s.fetchBytes (n + 1) = .stopped ((s.setMem (s.past 1).mem).fetchFailed (s.fetchReason s.fetchLin)) := by
  rw [State.fetchBytes, fetchTouch_paged (State.paged_io h.1), fetchStop_eq (State.paged_io h.1), if_neg hr]
  rfl

/-! ### The loop over prefixes -/

section Item

variable {u : State} {i : Instr} {rest : List Byte} (h : s.paged = true)
  (hd : decode ⟨s.osz, s.asz⟩ ((span 11 (s.segs.cs.base + s.eip)).map s.mem.fetchByte) = .ok (i, rest))

include h hd

theorem fetchItem_done (hb : s.fetchBytes (11 - rest.length) = .done u) : s.fetchItem = .instr i u := by
  rw [State.fetchItem, maxItemBytes, codeBytes_paged 11 h]
  simp only [State.decMode, State.fetchLin, hd, List.length_map, length_span, hb]

theorem fetchItem_stopped (hb : s.fetchBytes (11 - rest.length) = .stopped u) : s.fetchItem = .stopped u := by
  rw [State.fetchItem, maxItemBytes, codeBytes_paged 11 h]
  simp only [State.decMode, State.fetchLin, hd, List.length_map, length_span, hb]

end Item

/-- The first of the prefixes, one byte, and the turn of the loop that executes it (30_encoding R175). -/
theorem prefixesRun_cons {p : Instr} {ps : List Instr} (h : prefixesRun (p :: ps) s t) :
    ∃ v, prefixesRun ps ((s.past 1).setPfx v) t ∧
      (s.plainFetch → s.fetches 1 → ∀ f, runItems (f + 1) s = runItems f ((s.past 1).setPfx v)) := by
  obtain ⟨hp, ⟨rest, hlen, hd⟩, u, hexec, hps⟩ := h
  obtain ⟨v, hv⟩ := exec_of_isPfx hp (s.past 1)
  obtain rfl : u = (s.past 1).setPfx v := Host.Outcome.next.inj (hexec.symm.trans hv)
  refine ⟨v, hps, fun hplain hf f => runItems_prefix (fetchItem_done hplain.1 hd ?_) hp hv⟩
  rw [hlen, fetchBytes_succ hplain hf]
  rfl

theorem prefixesRun_past {ps : List Instr} (h : prefixesRun ps s t) : ∃ v, t = (s.past ps.length).setPfx v := by
  induction ps generalizing s with
  | nil => exact ⟨s.pfx, h.trans (past_zero s).symm⟩
  | cons p ps ih =>
    obtain ⟨v, hps, -⟩ := prefixesRun_cons h
    obtain ⟨w, rfl⟩ := ih hps
    refine ⟨w, ?_⟩
    rw [List.length_cons, Nat.add_comm, past_add]
    rfl

theorem runItems_prefixes {ps : List Instr} (h : prefixesRun ps s t) (hplain : s.plainFetch)
    (hf : s.fetches ps.length) (f : Nat) : runItems (ps.length + f) s = runItems f t := by
  induction ps generalizing s with
  | nil => rw [show t = s from h, List.length_nil, Nat.zero_add]
  | cons p ps ih =>
    obtain ⟨v, hps, hturn⟩ := prefixesRun_cons h
    rw [List.length_cons, Nat.add_comm ps.length 1, fetches_add hplain] at hf
    rw [List.length_cons, Nat.add_right_comm, hturn hplain hf.1]
    exact ih hps (plainFetch_past hplain) hf.2

/-- The cycle up to the first item, when nothing ends the run before it (60_exceptions R681 steps 1 to 5). -/
theorem step_eq_runItems {u : State} (hrun : s.ctl.running = true) (hp : s.intr.pending = none)
    (hh : s.ctl.halted = false) (hs : s.stopBits = 0) (hc : s.askCheck = (false, u)) :
    step s = runItems itemFuel u.drew.startInstr := by
  rw [step, State.cycle, if_pos hrun, deliver_empty hp, State.afterDelivery, hh, hs, hc]
  rfl

theorem askCheck_fixed {u : State} (hc : s.askCheck = (false, u)) :
    u.cfg = s.cfg ∧ u.draws = s.draws ∧ (s.paged = true → u.paged = true) := by
  obtain h | ⟨v, h⟩ := askCheck_cases s <;> rw [hc] at h <;> dsimp only at h <;> subst h
  · exact ⟨rfl, rfl, id⟩
  · exact ⟨resume_cfg s v, resume_draws s v, resume_paged v⟩

theorem take_span {k : Nat} (h : k ≤ n) (a : Word) : (span n a).take k = span k a := by
  obtain ⟨d, rfl⟩ := Nat.exists_eq_add_of_le h
  rw [span_add, List.take_left' (length_span k a)]

/-- The state past `n` bytes after prefixes of `m` bytes, which is past `m + n` bytes but for PFX. -/
theorem past_past {v : Pfx} (ht : t = (s.past m).setPfx v) : t.past n = (s.past (m + n)).setPfx v := by
  rw [ht, past_add]
  rfl

/-- Bytes below the top of the offset space are fewer than the turns of the loop (log entry 19). -/
theorem fetches_lt_itemFuel (h : s.fetches n) : n < itemFuel := by
  have hle := h.2
  have hlt := s.eipTop_lt
  simp only [itemFuel]
  omega

/-- What the last turn of the loop makes of an outcome: the instruction is counted (60_exceptions R681, R687). -/
def countedOut : Out → Out
  | .next v => .next v.counted
  | .fault f => .fault f
  | .refused r => .refused r

section Loop

variable {ps : List Instr} {i : Instr} {rest : List Byte} (hplain : s.plainFetch)
  (hps : prefixesRun ps s t)
  (hd : decode ⟨t.osz, t.asz⟩ ((span 11 (t.segs.cs.base + t.eip)).map t.mem.fetchByte) = .ok (i, rest))

include hplain hps hd

/-- Prefixes and an instruction of which every byte is fetched: it is executed past them, and counted. -/
theorem runItems_executed (hi : i.isPfx = false) (hf : s.fetches (ps.length + (11 - rest.length))) :
    runItems itemFuel s = countedOut (exec i (t.past (11 - rest.length))) := by
  obtain ⟨v, ht⟩ := prefixesRun_past hps
  obtain ⟨hfp, hfi⟩ := (fetches_add hplain).1 hf
  obtain ⟨f, hfuel⟩ := Nat.exists_eq_add_of_lt (fetches_lt_itemFuel hfp)
  have hplaint : t.plainFetch := ht ▸ plainFetch_past hplain
  have hfetch : t.fetchBytes (11 - rest.length) = .done (t.past (11 - rest.length)) :=
    fetchBytes_past (n := 0) hplaint (ht ▸ hfi)
  rw [hfuel, Nat.add_assoc, runItems_prefixes hps hplain hfp, runItems, fetchItem_done hplaint.1 hd hfetch]
  dsimp only
  rw [hi, if_neg Bool.false_ne_true]
  rfl

/-- Prefixes and an item whose fetch is refused after `k` bytes and ends the run. -/
theorem runItems_stopped {k : Nat} (hk : ps.length ≤ k) (hkn : k < ps.length + (11 - rest.length))
    (hf : s.fetches k) (hr : s.fetchReason (s.fetchLin + BitVec.ofNat 32 k) ≠ 0) :
    runItems itemFuel s = .next ((t.setMem (s.past (k + 1)).mem).fetchFailed
      (s.fetchReason (s.fetchLin + BitVec.ofNat 32 k))) := by
  obtain ⟨j, rfl⟩ := Nat.exists_eq_add_of_le hk
  obtain ⟨r, hlen⟩ : ∃ r, 11 - rest.length = j + (r + 1) := ⟨11 - rest.length - j - 1, by omega⟩
  obtain ⟨v, ht⟩ := prefixesRun_past hps
  obtain ⟨hfp, hfi⟩ := (fetches_add hplain).1 hf
  obtain ⟨f, hfuel⟩ := Nat.exists_eq_add_of_lt (fetches_lt_itemFuel hfp)
  have hplaint : t.plainFetch := ht ▸ plainFetch_past hplain
  have hreason : (t.past j).fetchReason (t.past j).fetchLin =
      s.fetchReason (s.fetchLin + BitVec.ofNat 32 (ps.length + j)) := by
    rw [past_past ht, ← fetchLin_past]
    exact fetchReason_past hplain _
  have hmem : ((t.past j).past 1).mem = (s.past (ps.length + j + 1)).mem := by
    rw [past_past ht, past_add s (ps.length + j) 1]
    rfl
  have hfetch := fetchBytes_stopped (n := r) (plainFetch_past (n := j) hplaint) (hreason ▸ hr)
  rw [← fetchBytes_past hplaint (ht ▸ hfi), ← hlen] at hfetch
  rw [hfuel, Nat.add_assoc, runItems_prefixes hps hplain hfp, runItems, fetchItem_stopped hplaint.1 hd hfetch, hreason,
    hmem, past_past ht, ht]
  rfl

end Loop

/-- Settles O2: the loop runs to the state after the prefixes, where the next item is fetched or refused. -/
theorem stepAppliesPrefixesThenInstruction : Obligations.StepAppliesPrefixesThenInstruction := by
  unfold Obligations.StepAppliesPrefixesThenInstruction
  intro s u t ps i rest hpaged hrun hpend hhalt hstop hmax hcheck hprefixes hd n code
  obtain ⟨hcfg, hdraws, hupaged⟩ := askCheck_fixed hcheck
  have hplain : u.drew.startInstr.plainFetch := ⟨hupaged hpaged, (congrArg _ hcfg).trans hmax⟩
  rw [← hdraws] at hprefixes
  obtain ⟨v, ht⟩ := prefixesRun_past hprefixes
  rw [step_eq_runItems hrun hpend hhalt hstop hcheck]
  refine ⟨fun hi hreason hle => ?_, fun k b hk hb hr hbefore hle => ?_⟩
  · rw [runItems_executed hplain hprefixes hd hi ⟨hreason, hle⟩, past_past ht, ht]
    rfl
  · obtain ⟨hkn, hkb⟩ := List.getElem?_eq_some_iff.1 hb
    rw [getElem_span] at hkb
    rw [length_span] at hkn
    rw [take_span hkn.le] at hbefore
    rw [take_span hkn]
    subst hkb
    rw [runItems_stopped hplain hprefixes hd hk hkn ⟨hbefore, hle⟩ hr, ht]
    rfl

end Sys2Proof.Machine

/-! PROOFS. Decoding never fails and uses from one to eleven bytes (30_encoding R171, R173): each row of the opcode maps
reads, column by column, at most ten bytes after the opcode. -/

namespace Sys2Proof

/-- The decoder's answer `d` on `bs`, when these are at least `n` bytes, is a well-formed instruction of at most `n` of
them, and the bytes after it. -/
def Decodes (m : DecMode) (n : Nat) (bs : List Byte) (d : Dec) : Prop :=
  n ≤ bs.length → ∃ i used rest, d = .ok (i, rest) ∧ bs = used ++ rest ∧ used.length ≤ n ∧ i.wf m = true

namespace Decodes

variable {m : DecMode} {n : Nat} {bs : List Byte} {o a : Sz}

theorem got {i : Instr} (h : i.wf m = true) : Decodes m n bs (got i bs) :=
  fun _ => ⟨i, [], bs, rfl, rfl, n.zero_le, h⟩

theorem mono {k : Nat} {d : Dec} (h : Decodes m n bs d) (hk : n ≤ k) : Decodes m k bs d := fun hl => by
  obtain ⟨i, used, rest, hd, hbs, hn, hi⟩ := h (hk.trans hl)
  exact ⟨i, used, rest, hd, hbs, hn.trans hk, hi⟩

theorem byte {k : Byte → List Byte → Dec} (h : ∀ b bs, Decodes m n bs (k b bs)) :
    Decodes m (n + 1) bs (withByte bs k) := by
  intro hl
  cases bs with
  | nil => simp at hl
  | cons b bs =>
    obtain ⟨i, used, rest, hd, rfl, hn, hi⟩ := h b bs (Nat.le_of_succ_le_succ hl)
    exact ⟨i, b :: used, rest, hd, rfl, Nat.succ_le_succ hn, hi⟩

theorem imm16 {k : BitVec 16 → List Byte → Dec} (h : ∀ v bs, Decodes m n bs (k v bs)) :
    Decodes m (n + 2) bs (with16 bs k) := byte fun _ _ => byte fun _ _ => h _ _

theorem imm32 {k : Word → List Byte → Dec} (h : ∀ v bs, Decodes m n bs (k v bs)) :
    Decodes m (n + 4) bs (with32 bs k) := byte fun _ _ => byte fun _ _ => byte fun _ _ => byte fun _ _ => h _ _

theorem iz {k : Iz → List Byte → Dec} (h : ∀ z bs, z.wf o = true → Decodes m n bs (k z bs)) :
    Decodes m (n + 4) bs (withIz o bs k) := by
  cases o with
  | s16 => exact (imm16 (n := n) fun v _ => h (.w v) _ rfl).mono (by omega)
  | s32 => exact imm32 fun v _ => h (.d v) _ rfl

theorem moffs {k : Moffs → List Byte → Dec} (h : ∀ z bs, z.wf a = true → Decodes m n bs (k z bs)) :
    Decodes m (n + 4) bs (withMoffs a bs k) := by
  cases a with
  | s16 => exact (imm16 (n := n) fun v _ => h (.o16 v) _ rfl).mono (by omega)
  | s32 => exact imm32 fun v _ => h (.o32 v) _ rfl

theorem far {k : FarPtr → List Byte → Dec} (h : ∀ p bs, p.off.wf o = true → Decodes m n bs (k p bs)) :
    Decodes m (n + 6) bs (withFar o bs k) := iz fun z _ hz => imm16 fun sel _ => h ⟨z, sel⟩ _ hz

theorem disp16 {md : BitVec 2} {k : Disp16 → List Byte → Dec}
    (h : ∀ d bs, (md = 0 ∨ d.isSome = true) → Decodes m n bs (k d bs)) :
    Decodes m (n + 2) bs (withDisp16 md bs k) := by
  unfold withDisp16
  split
  · exact (h _ _ (.inl (BitVec.eq_of_toNat_eq ‹_›))).mono (by omega)
  · exact (byte fun _ _ => h _ _ (.inr rfl)).mono (by omega)
  · exact imm16 fun _ _ => h _ _ (.inr rfl)

theorem disp32 {md : BitVec 2} {k : Disp32 → List Byte → Dec}
    (h : ∀ d bs, (md = 0 ∨ d.isSome = true) → Decodes m n bs (k d bs)) :
    Decodes m (n + 4) bs (withDisp32 md bs k) := by
  unfold withDisp32
  split
  · exact (h _ _ (.inl (BitVec.eq_of_toNat_eq ‹_›))).mono (by omega)
  · exact (byte fun _ _ => h _ _ (.inr rfl)).mono (by omega)
  · exact imm32 fun _ _ => h _ _ (.inr rfl)

theorem mem {md : BitVec 2} {rm : Num8} {k : MemRef → List Byte → Dec}
    (h : ∀ mem bs, mem.wf a = true → Decodes m n bs (k mem bs)) : Decodes m (n + 5) bs (withMem a md rm bs k) := by
  unfold withMem
  cases a with
  | s16 =>
    dsimp only
    split
    · exact (imm16 fun _ _ => h _ _ rfl).mono (by omega)
    · rename_i hno
      refine (disp16 (n := n) fun d _ hd => h _ _ ?_).mono (by omega)
      simp only [MemRef.wf, decide_true, Bool.true_and, Bool.or_eq_true, decide_eq_true_eq]
      tauto
  | s32 =>
    dsimp only
    split
    · refine byte fun sib bs => ?_
      split
      · exact imm32 fun _ _ => h _ _ rfl
      · refine disp32 fun d _ hd => h _ _ ?_
        simp only [MemRef.wf, decide_true, Bool.true_and, Bool.or_eq_true, decide_eq_true_eq]
        tauto
    · split
      · exact (imm32 fun _ _ => h _ _ rfl).mono (by omega)
      · refine (disp32 (n := n) fun d _ hd => h _ _ ?_).mono (by omega)
        simp only [MemRef.wf, decide_true, Bool.true_and, Bool.and_eq_true, Bool.or_eq_true, decide_eq_true_eq]
        tauto

theorem modRm {k : Num8 → RM → List Byte → Dec} (h : ∀ r rm bs, rm.wf a = true → Decodes m n bs (k r rm bs)) :
    Decodes m (n + 6) bs (withModRm a bs k) := by
  refine byte fun b bs => ?_
  split
  · exact (h _ _ _ rfl).mono (by omega)
  · exact mem fun _ _ hm => h _ _ _ hm

theorem modRmMem {u : UdOp} {k : Num8 → MemRef → List Byte → Dec}
    (hu : ∀ reg r, u.illegal reg (.reg r) = true)
    (h : ∀ r mem bs, mem.wf m.ads = true → Decodes m n bs (k r mem bs)) :
    Decodes m (n + 6) bs (withModRmMem m.ads u bs k) := by
  refine modRm fun r rm bs hrm => ?_
  cases rm with
  | reg r' => exact got (Bool.and_eq_true_iff.2 ⟨rfl, hu r r'⟩)
  | mem mem => exact h _ _ _ hrm

end Decodes

section Rows

variable {m : DecMode} {bs : List Byte} {rm : RM}

/-! ### Groups -/

theorem decodes_group3 (w : OpW) (reg : Num8) (h : rm.wf m.ads = true) :
    Decodes m 4 bs (decGroup3 m w reg rm bs) := by
  unfold decGroup3
  cases reg with
  | n0 | n1 => cases w with
    | b => exact .byte fun _ _ => .got h
    | v => exact .iz fun _ _ hz => .got (Bool.and_eq_true_iff.2 ⟨h, hz⟩)
  | _ => exact .got h

theorem decodes_group4 (reg : Num8) (h : rm.wf m.ads = true) : Decodes m 4 bs (decGroup4 reg rm bs) := by
  cases reg with
  | n0 | n1 => exact .got h
  | _ => exact .got (Bool.and_eq_true_iff.2 ⟨h, rfl⟩)

theorem decodes_group5 (reg : Num8) (h : rm.wf m.ads = true) : Decodes m 4 bs (decGroup5 reg rm bs) := by
  cases reg with
  | n3 | n5 => cases rm with
    | reg => exact .got rfl
    | mem => exact .got h
  | n7 => exact .got (Bool.and_eq_true_iff.2 ⟨h, rfl⟩)
  | _ => exact .got h

theorem decodes_group6 (reg : Num8) (h : rm.wf m.ads = true) : Decodes m 3 bs (decGroup6 reg rm bs) := by
  cases reg with
  | n0 | n1 | n2 | n3 => exact .got h
  | _ => exact .got (Bool.and_eq_true_iff.2 ⟨h, rfl⟩)

theorem decodes_group7 (reg : Num8) (h : rm.wf m.ads = true) : Decodes m 3 bs (decGroup7 reg rm bs) := by
  cases reg with
  | n0 | n1 | n2 | n3 => cases rm with
    | reg => exact .got rfl
    | mem => exact .got h
  | n4 | n6 => exact .got h
  | _ => exact .got (Bool.and_eq_true_iff.2 ⟨h, rfl⟩)

theorem decodes_group8 (reg : Num8) (h : rm.wf m.ads = true) : Decodes m 3 bs (decGroup8 reg rm bs) := by
  unfold decGroup8
  cases reg with
  | n0 | n1 | n2 | n3 => exact .got (Bool.and_eq_true_iff.2 ⟨h, rfl⟩)
  | _ => exact .byte fun _ _ => .got h

/-! ### Families of instructions -/

theorem wf_aluInstr (n : Num8) (f : AluForm) : (aluInstr n f).wf m = f.wf m := by cases n <;> rfl

theorem wf_shiftInstr (n : Num8) (w : OpW) (c : ShCount) : (shiftInstr n w rm c).wf m = rm.wf m.ads := by
  cases n <;> rfl

theorem wf_jccInstr (c : Cond) (r : Rel) : (jccInstr c r).wf m = r.wf m.os := by cases c <;> rfl

theorem wf_setccInstr (c : Cond) : (setccInstr c rm).wf m = rm.wf m.ads := by cases c <;> rfl

/-! ### The one-byte map -/

theorem decodes_aluRow (op c : Num8) {rest : Num8 → Dec} (h6 : Decodes m 10 bs (rest .n6))
    (h7 : Decodes m 10 bs (rest .n7)) : Decodes m 10 bs (decAluRow m op c bs rest) := by
  unfold decAluRow
  cases c with
  | n0 | n1 | n2 | n3 => exact .modRm fun _ _ _ h => .got ((wf_aluInstr ..).trans h)
  | n4 => exact .byte fun _ _ => .got (wf_aluInstr ..)
  | n5 => exact .iz fun _ _ h => .got ((wf_aluInstr ..).trans h)
  | n6 => exact h6
  | n7 => exact h7

theorem decodes_row60 (c : Num8) : Decodes m 10 bs (decRow60 m c bs) := by
  unfold decRow60
  cases c with
  | n0 | n1 => obtain ⟨_ | _, _⟩ := m <;> exact .got rfl
  | n2 => exact .modRmMem (fun _ _ => rfl) fun _ _ _ h => .got h
  | n3 => exact .modRm fun _ _ _ h => .got h
  | _ => exact .got rfl

theorem decodes_row68 (c : Num8) : Decodes m 10 bs (decRow68 m c bs) := by
  unfold decRow68
  cases c with
  | n0 => exact .iz fun _ _ h => .got h
  | n1 => exact .modRm fun _ _ _ h => .iz fun _ _ hz => .got (Bool.and_eq_true_iff.2 ⟨h, hz⟩)
  | n2 => exact .byte fun _ _ => .got rfl
  | n3 => exact .modRm fun _ _ _ h => .byte fun _ _ => .got (Bool.and_eq_true_iff.2 ⟨h, rfl⟩)
  | n4 | n6 => exact .got rfl
  | n5 | n7 => obtain ⟨_ | _, _⟩ := m <;> exact .got rfl

theorem decodes_row80 (c : Num8) : Decodes m 10 bs (decRow80 m c bs) := by
  unfold decRow80
  cases c with
  | n0 | n2 | n3 => exact .modRm fun _ _ _ h => .byte fun _ _ => .got ((wf_aluInstr ..).trans h)
  | n1 =>
    exact .modRm fun _ _ _ h => .iz fun _ _ hz => .got ((wf_aluInstr ..).trans (Bool.and_eq_true_iff.2 ⟨h, hz⟩))
  | _ => exact .modRm fun _ _ _ h => .got h

theorem decodes_row88 (c : Num8) : Decodes m 10 bs (decRow88 m c bs) := by
  unfold decRow88
  cases c with
  | n0 | n1 | n2 | n3 => exact .modRm fun _ _ _ h => .got h
  | n4 =>
    refine .modRm fun r rm bs h => ?_
    cases r with
    | n6 | n7 => exact .got (Bool.and_eq_true_iff.2 ⟨h, rfl⟩)
    | _ => exact .got h
  | n5 => exact .modRmMem (fun _ _ => rfl) fun _ _ _ h => .got h
  | n6 =>
    refine .modRm fun r rm bs h => ?_
    cases r with
    | n1 | n6 | n7 => exact .got (Bool.and_eq_true_iff.2 ⟨h, rfl⟩)
    | _ => exact .got h
  | n7 =>
    refine .modRm fun r rm bs h => ?_
    split
    · exact .got h
    · exact .got (Bool.and_eq_true_iff.2 ⟨h, decide_eq_true ‹_›⟩)

theorem decodes_row98 (c : Num8) : Decodes m 10 bs (decRow98 m c bs) := by
  unfold decRow98
  cases c with
  | n0 | n1 | n4 | n5 => obtain ⟨_ | _, _⟩ := m <;> exact .got rfl
  | n2 => exact .far fun _ _ h => .got h
  | _ => exact .got rfl

theorem decodes_rowA0 (c : Num8) : Decodes m 10 bs (decRowA0 m c bs) := by
  unfold decRowA0
  cases c with
  | n0 | n1 | n2 | n3 => exact .moffs fun _ _ h => .got h
  | n4 | n6 => exact .got rfl
  | n5 | n7 => obtain ⟨_ | _, _⟩ := m <;> exact .got rfl

theorem decodes_rowA8 (c : Num8) : Decodes m 10 bs (decRowA8 m c bs) := by
  unfold decRowA8
  cases c with
  | n0 => exact .byte fun _ _ => .got rfl
  | n1 => exact .iz fun _ _ h => .got h
  | n2 | n4 | n6 => exact .got rfl
  | n3 | n5 | n7 => obtain ⟨_ | _, _⟩ := m <;> exact .got rfl

theorem decodes_rowC0 (c : Num8) : Decodes m 10 bs (decRowC0 m c bs) := by
  unfold decRowC0
  cases c with
  | n0 | n1 => exact .modRm fun _ _ _ h => .byte fun _ _ => .got ((wf_shiftInstr ..).trans h)
  | n2 => exact .imm16 fun _ _ => .got rfl
  | n3 => exact .got rfl
  | n4 | n5 => exact .modRmMem (fun _ _ => rfl) fun _ _ _ h => .got h
  | n6 =>
    refine .modRm fun n rm bs h => ?_
    split
    · exact .byte fun _ _ => .got h
    · exact .got (Bool.and_eq_true_iff.2 ⟨h, decide_eq_true ‹_›⟩)
  | n7 =>
    refine .modRm fun n rm bs h => ?_
    split
    · exact .iz fun _ _ hz => .got (Bool.and_eq_true_iff.2 ⟨h, hz⟩)
    · exact .got (Bool.and_eq_true_iff.2 ⟨h, decide_eq_true ‹_›⟩)

theorem decodes_rowC8 (c : Num8) : Decodes m 10 bs (decRowC8 m c bs) := by
  unfold decRowC8
  cases c with
  | n0 => exact .imm16 fun _ _ => .byte fun _ _ => .got rfl
  | n2 => exact .imm16 fun _ _ => .got rfl
  | n5 => exact .byte fun _ _ => .got rfl
  | n7 => obtain ⟨_ | _, _⟩ := m <;> exact .got rfl
  | _ => exact .got rfl

theorem decodes_rowD0 (c : Num8) : Decodes m 10 bs (decRowD0 m c bs) := by
  unfold decRowD0
  cases c with
  | n0 | n1 | n2 | n3 => exact .modRm fun _ _ _ h => .got ((wf_shiftInstr ..).trans h)
  | n4 | n5 => exact .byte fun _ _ => .got rfl
  | _ => exact .got rfl

theorem decodes_rowE0 (c : Num8) : Decodes m 10 bs (decRowE0 c bs) := by
  cases c <;> exact .byte fun _ _ => .got rfl

theorem decodes_rowE8 (c : Num8) : Decodes m 10 bs (decRowE8 m c bs) := by
  unfold decRowE8
  cases c with
  | n0 | n1 => exact .iz fun _ _ h => .got h
  | n2 => exact .far fun _ _ h => .got h
  | n3 => exact .byte fun _ _ => .got rfl
  | _ => exact .got rfl

theorem decodes_rowF0 (c : Num8) : Decodes m 10 bs (decRowF0 m c bs) := by
  unfold decRowF0
  cases c with
  | n6 | n7 => exact .modRm fun _ _ _ h => decodes_group3 _ _ h
  | _ => exact .got rfl

theorem decodes_rowF8 (c : Num8) : Decodes m 10 bs (decRowF8 m c bs) := by
  unfold decRowF8
  cases c with
  | n6 => exact .modRm fun _ _ _ h => decodes_group4 _ h
  | n7 => exact .modRm fun _ _ _ h => decodes_group5 _ h
  | _ => exact .got rfl

/-! ### The two-byte map -/

section Two

variable {op : Byte} {c : Num8}

theorem decodes_two00 (hud : c ∈ unlistedColumns 0x00 → (Instr.ud (.two op)).wf m = true) :
    Decodes m 9 bs (decTwo00 m op c bs) := by
  unfold decTwo00
  cases c with
  | n0 => exact .modRm fun _ _ _ h => decodes_group6 _ h
  | n1 => exact .modRm fun _ _ _ h => decodes_group7 _ h
  | n2 | n3 => exact .modRm fun _ _ _ h => .got (Bool.and_eq_true_iff.2 ⟨h, rfl⟩)
  | n6 => exact .got rfl
  | n4 | n5 | n7 => exact .got (hud (by decide))

theorem decodes_two20 (hud : c ∈ unlistedColumns 0x04 → (Instr.ud (.two op)).wf m = true) :
    Decodes m 9 bs (decTwo20 op c bs) := by
  unfold decTwo20
  cases c with
  | n0 | n1 | n2 | n3 => exact .byte fun _ _ => .got rfl
  | _ => exact .got (hud (by decide))

theorem decodes_two30 (hud : c ∈ unlistedColumns 0x06 → (Instr.ud (.two op)).wf m = true) :
    Decodes m 9 bs (decTwo30 op c bs) := by
  unfold decTwo30
  cases c with
  | n0 | n2 => exact .got rfl
  | _ => exact .got (hud (by decide))

theorem decodes_twoA0 (hud : c ∈ unlistedColumns 0x14 → (Instr.ud (.two op)).wf m = true) :
    Decodes m 9 bs (decTwoA0 m op c bs) := by
  unfold decTwoA0
  cases c with
  | n0 | n1 => exact .got rfl
  | n3 | n5 => exact .modRm fun _ _ _ h => .got h
  | n4 => exact .modRm fun _ _ _ h => .byte fun _ _ => .got h
  | n2 | n6 | n7 => exact .got (hud (by decide))

theorem decodes_twoA8 (hud : c ∈ unlistedColumns 0x15 → (Instr.ud (.two op)).wf m = true) :
    Decodes m 9 bs (decTwoA8 m op c bs) := by
  unfold decTwoA8
  cases c with
  | n0 | n1 => exact .got rfl
  | n3 | n5 | n7 => exact .modRm fun _ _ _ h => .got h
  | n4 => exact .modRm fun _ _ _ h => .byte fun _ _ => .got h
  | n2 | n6 => exact .got (hud (by decide))

theorem decodes_twoB0 (hud : c ∈ unlistedColumns 0x16 → (Instr.ud (.two op)).wf m = true) :
    Decodes m 9 bs (decTwoB0 m op c bs) := by
  unfold decTwoB0
  cases c with
  | n2 | n4 | n5 => exact .modRmMem (fun _ _ => rfl) fun _ _ _ h => .got h
  | n3 | n6 | n7 => exact .modRm fun _ _ _ h => .got h
  | n0 | n1 => exact .got (hud (by decide))

theorem decodes_twoB8 (hud : c ∈ unlistedColumns 0x17 → (Instr.ud (.two op)).wf m = true) :
    Decodes m 9 bs (decTwoB8 m op c bs) := by
  unfold decTwoB8
  cases c with
  | n2 => exact .modRm fun _ _ _ h => decodes_group8 _ h
  | n3 | n4 | n5 | n6 | n7 => exact .modRm fun _ _ _ h => .got h
  | n0 | n1 => exact .got (hud (by decide))

end Two

theorem decodes_two : Decodes m 10 bs (decodeTwo m bs) := by
  refine .byte fun op bs => ?_
  have hud : lowField op ∈ unlistedColumns (opRow op) → (Instr.ud (.two op)).wf m = true := fun h => by
    simpa only [Instr.wf, UdForm.wf, Bool.not_eq_true'] using (mem_unlistedColumns op).1 h
  generalize lowField op = c at hud ⊢
  generalize opRow op = r at hud ⊢
  dsimp only
  split
  · exact decodes_two00 hud
  · exact decodes_two20 hud
  · exact decodes_two30 hud
  · exact .iz fun _ _ h => .got ((wf_jccInstr ..).trans h)
  · exact .iz fun _ _ h => .got ((wf_jccInstr ..).trans h)
  · exact .modRm fun _ _ _ h => .got ((wf_setccInstr ..).trans h)
  · exact .modRm fun _ _ _ h => .got ((wf_setccInstr ..).trans h)
  · exact decodes_twoA0 hud
  · exact decodes_twoA8 hud
  · exact decodes_twoB0 hud
  · exact decodes_twoB8 hud
  · refine .got (hud ?_)
    rw [unlistedColumns]
    · cases c <;> decide
    all_goals assumption

theorem decodes_one (op : Byte) : Decodes m 10 bs (decodeOne m op bs) := by
  unfold decodeOne
  dsimp only
  split
  case h_2 => exact decodes_aluRow _ _ (.got rfl) decodes_two
  case h_1 | h_3 | h_4 | h_5 | h_6 | h_7 | h_8 => exact decodes_aluRow _ _ (.got rfl) (.got rfl)
  case h_9 | h_10 | h_11 | h_12 => exact .got rfl
  case h_13 => exact decodes_row60 _
  case h_14 => exact decodes_row68 _
  case h_15 | h_16 => exact .byte fun _ _ => .got (wf_jccInstr ..)
  case h_17 => exact decodes_row80 _
  case h_18 => exact decodes_row88 _
  case h_19 =>
    split
    · exact .got rfl
    · exact .got (decide_eq_true ‹_›)
  case h_20 => exact decodes_row98 _
  case h_21 => exact decodes_rowA0 _
  case h_22 => exact decodes_rowA8 _
  case h_23 => exact .byte fun _ _ => .got rfl
  case h_24 => exact .iz fun _ _ h => .got h
  case h_25 => exact decodes_rowC0 _
  case h_26 => exact decodes_rowC8 _
  case h_27 => exact decodes_rowD0 _
  case h_28 => exact .modRm fun _ _ _ h => .got h
  case h_29 => exact decodes_rowE0 _
  case h_30 => exact decodes_rowE8 _
  case h_31 => exact decodes_rowF0 _
  case h_32 => exact decodes_rowF8 _

end Rows

/-- Settles O4: the opcode byte, then at most ten bytes, whatever row of the maps it stands in. -/
theorem everyByteSequenceDecodes : Obligations.EveryByteSequenceDecodes := by
  unfold Obligations.EveryByteSequenceDecodes
  intro m bs hl
  cases bs with
  | nil => simp at hl
  | cons op bs =>
    obtain ⟨i, used, rest, hd, rfl, hn, hi⟩ := decodes_one (m := m) op (Nat.le_of_succ_le_succ hl)
    exact ⟨i, op :: used, rest, hd, rfl, Nat.succ_pos _, Nat.succ_le_succ hn, hi⟩

end Sys2Proof

/-! PROOFS. Prefixes, effective addresses and words of the spec (20_memory R104, R143, 30_encoding R174 to R176,
R187 to R191, R195, 95_test_vectors V4.1 to V4.5). -/

namespace Sys2Proof.Machine

/-! ### Prefixes -/

/-- Settles O25: the meaning of each is the write of its field. -/
theorem prefixWritesPfxOnly : Obligations.PrefixWritesPfxOnly := by
  unfold Obligations.PrefixWritesPfxOnly
  intro s
  simp only [List.forall_mem_cons, List.not_mem_nil, false_imp_iff, implies_true, and_true]
  exact ⟨⟨⟨_, rfl, rfl⟩, ⟨_, rfl, rfl⟩, ⟨_, rfl, rfl⟩, ⟨_, rfl, rfl⟩, ⟨_, rfl, rfl⟩, ⟨_, rfl, rfl⟩⟩,
    ⟨_, rfl, rfl⟩, ⟨_, rfl, rfl⟩, ⟨_, rfl, rfl⟩, ⟨_, rfl, rfl⟩, ⟨_, rfl, rfl⟩⟩

/-! ### Effective addresses -/

theorem toNat_ofInt_emod (n : Nat) (k : Int) : ((BitVec.ofInt n k).toNat : Int) = k % 2 ^ n := by
  rw [BitVec.toNat_ofInt, Int.toNat_of_nonneg (Int.emod_nonneg _ (by positivity))]
  norm_num

theorem toNat_setWidth_ofInt (k : Int) : (((BitVec.ofInt 16 k).setWidth 32).toNat : Int) = k % 65536 := by
  rw [BitVec.toNat_setWidth_of_le (by decide)]
  exact toNat_ofInt_emod 16 k

theorem ofInt_toNat {n : Nat} (x : BitVec n) : BitVec.ofInt n x.toNat = x := by
  rw [BitVec.ofInt_natCast, BitVec.ofNat_toNat, BitVec.setWidth_eq]

theorem shiftLeft_eq_ofInt {n : Nat} (x : BitVec n) (k : Nat) : x <<< k = BitVec.ofInt n (x.toNat * 2 ^ k) := by
  have hcast : (x.toNat * 2 ^ k : Int) = (x.toNat <<< k : Nat) := by rw [Nat.shiftLeft_eq]; norm_cast
  rw [hcast, BitVec.ofInt_natCast]
  rfl

/-- Settles O24: each sum of the tables is that of the integers, reduced to the width of the offset. -/
theorem effectiveAddresses : Obligations.EffectiveAddresses := by
  unfold Obligations.EffectiveAddresses
  intro s rm r i ss d16 d32 v16 v o dispInt16 dispInt32 r16 sum16 index segOr
  have hd16 : disp16 d16 = BitVec.ofInt 16 dispInt16 := by
    cases d16 with
    | none | d8 => rfl
    | d16 x => exact BitVec.ofInt_toInt.symm
  have hd32 : disp32 d32 = BitVec.ofInt 32 dispInt32 := by
    cases d32 with
    | none | d8 => rfl
    | d32 x => exact BitVec.ofInt_toInt.symm
  have hsum : base16 s.regs rm = BitVec.ofInt 16 sum16 := by
    cases rm <;> simp only [sum16, r16, BitVec.ofInt_add, ofInt_toNat] <;> rfl
  have hindex : scaledIndex s.regs i ss = BitVec.ofInt 32 index := by
    simp only [scaledIndex, index]
    split
    · rfl
    · exact shiftLeft_eq_ofInt _ _
  have hseg (g : Seg) : s.pfx.seg.getD g = segOr g := by
    simp only [segOr]
    cases s.pfx.seg <;> rfl
  have hoff {x : Word} {k : Int} (h : x = BitVec.ofInt 32 k) : (x.toNat : Int) = k % 2 ^ 32 := by
    rw [h, toNat_ofInt_emod]
  simp only [State.eaOff, State.eaSeg, hseg, memOff, hd16, hd32, hsum, hindex]
  refine ⟨?_, hoff ?_, hoff ?_, hoff ?_, congrArg segOr ?_, rfl, congrArg segOr ?_, congrArg segOr ?_,
    BitVec.toNat_setWidth_of_le (by decide), trivial, rfl, rfl, ?_⟩
  · rw [← BitVec.ofInt_add]
    exact toNat_setWidth_ofInt _
  · rw [BitVec.ofInt_add, ofInt_toNat]
  · rw [BitVec.ofInt_add, BitVec.ofInt_add, ofInt_toNat]
  · rw [BitVec.ofInt_add, BitVec.ofInt_toInt]
  · cases rm <;> rfl
  · simp [memSeg, or_assoc]
  · simp [memSeg]
  · cases o with
    | o16 x => exact BitVec.toNat_setWidth_of_le (by decide)
    | o32 x => rfl

/-! ### Words of the spec -/

/-- A word of the spec that is the encoding of an instruction decodes to it. -/
theorem decode_word {m : DecMode} {i : Instr} {bs : List Byte} (h : i.wf m = true) (hb : encode i = bs) :
    decode m bs = .ok (i, []) := by
  simpa [hb] using decodeOfEncodeIsSame m i [] h

/-- Settles O3: each word is the encoding of its instruction, which decoding gives back. -/
theorem specWordsDecode : Obligations.SpecWordsDecode := by
  unfold Obligations.SpecWordsDecode
  exact ⟨decode_word rfl rfl, decode_word rfl rfl, decode_word rfl rfl, decode_word rfl rfl, decode_word rfl rfl,
    decode_word rfl rfl, decode_word rfl rfl, decode_word rfl rfl, decode_word rfl rfl, decode_word rfl rfl⟩

end Sys2Proof.Machine

/-! PROOFS. Arithmetic and logic on operands (40_alu_primitives R250 to R265, 42_arithmetic_logic R400 to R413): what an
instruction leaves that reads its operands, sets EFLAGS and writes a result back, then each primitive by its table. -/

namespace Sys2Proof.Machine

theorem four_le_bits (w : Width) : 4 ≤ w.bits := by cases w <;> decide

/-! ### Reading the operands, setting EFLAGS, writing a result -/

theorem completes_mono {i : Instr} {s : State} {P Q : State → Prop} (h : completes i s P) (hPQ : ∀ t, P t → Q t) :
    completes i s Q := by
  obtain ⟨t, ht, hP⟩ := h
  exact ⟨t, ht, hPQ t hP⟩

section Operands

variable {s u t : State} {i : Instr} {w : Width} {rm : RM} {f : Eflags}

theorem rmTouch_flags (h : s.paged = true) : (s.rmTouch w rm).flags = s.flags := by simp [State.paged_io h]

theorem rmTouch_regs (h : s.paged = true) : (s.rmTouch w rm).regs = s.regs := by simp [State.paged_io h]

/-- After reads, a write of EFLAGS and of an operand changes nothing else. -/
theorem placeStore_leaves (h : s.paged = true) (hu : s.onlyTouched u) (p : Place) (r : BitVec w.bits) :
    s.sameButData ((u.setFlags f).placeStore w p r) ∧ s.wrote ((u.setFlags f).placeStore w p r) w p r ∧
      ((u.setFlags f).placeStore w p r).flags = f := by
  have hf : (s.setFlags f).onlyTouched (u.setFlags f) := by
    obtain ⟨m, rfl, hm⟩ := hu
    exact ⟨m, rfl, hm⟩
  refine ⟨?_, placeStore_wrote (s := s.setFlags f) h hf w p r, ?_⟩
  · rw [placeStore_paged (State.paged_io (onlyTouched_paged (s := s.setFlags f) h hf))]
    obtain ⟨m, rfl, -⟩ := hu
    exact ⟨⟨⟨⟨rfl, rfl, rfl, rfl, rfl⟩, rfl, rfl⟩, rfl⟩, rfl⟩
  · rw [placeStore_paged (State.paged_io (onlyTouched_paged (s := s.setFlags f) h hf))]
    rfl

/-- After reads, a write of EFLAGS alone. -/
theorem setFlags_leaves (hu : s.onlyTouched u) :
    s.sameButData (u.setFlags f) ∧ (u.setFlags f).regs = s.regs ∧ s.mem.kept (u.setFlags f).mem := by
  obtain ⟨m, rfl, hkept, -⟩ := hu
  exact ⟨⟨⟨⟨⟨rfl, rfl, rfl, rfl, rfl⟩, rfl, rfl⟩, rfl⟩, rfl⟩, rfl, hkept⟩

/-- What an instruction leaves that reads, sets EFLAGS to `f` and writes `r` to the operand at `p`; it may draw. -/
theorem completes_written (h : s.paged = true) (hu : s.onlyTouched u) {p : Place} {r : BitVec w.bits}
    {Q : State → BitVec w.bits → Prop}
    (hi : exec i s = .next t) (ht : t = (u.setFlags f).placeStore w p r ∨ t = ((u.setFlags f).placeStore w p r).drew)
    (hQ : t.flags = f → Q t r) : completes i s fun t => ∃ r, s.sameButData t ∧ s.wrote t w p r ∧ Q t r := by
  obtain ⟨hsame, hwrote, hflags⟩ := placeStore_leaves (f := f) h hu p r
  refine ⟨t, hi, r, ?_⟩
  rcases ht with rfl | rfl <;> exact ⟨hsame, hwrote, hQ hflags⟩

/-- The same where only EFLAGS are written. -/
theorem completes_compared (hu : s.onlyTouched u) {n : Nat} {r : BitVec n} {Q : State → BitVec n → Prop}
    (hi : exec i s = .next t) (ht : t = u.setFlags f ∨ t = (u.setFlags f).drew) (hQ : t.flags = f → Q t r) :
    completes i s fun t => ∃ r, s.sameButData t ∧ t.regs = s.regs ∧ s.mem.kept t.mem ∧ Q t r := by
  obtain ⟨hsame, hregs, hmem⟩ := setFlags_leaves (f := f) hu
  refine ⟨t, hi, r, ?_⟩
  rcases ht with rfl | rfl <;> exact ⟨hsame, hregs, hmem, hQ rfl⟩

/-- What `State.alu` leaves, with or without a draw: the primitive's result at the destination, and its flags. -/
theorem completes_alu (h : s.paged = true) {op : BinOp} {f : AluForm}
    {Q : State → BitVec (aluWidth s.osz f).bits → Prop}
    (hi : exec i s = .next t) (ht : t = s.alu op f ∨ t = (s.alu op f).drew)
    (hQ : ∀ t : State,
      t.flags = (op _ (s.rmVal (aluWidth s.osz f) (aluDst f)) (s.aluSrc (aluWidth s.osz f) f) s.flags s.draws).2 →
      Q t (op _ (s.rmVal (aluWidth s.osz f) (aluDst f)) (s.aluSrc (aluWidth s.osz f) f) s.flags s.draws).1) :
    completes i s fun t =>
      ∃ r, s.sameButData t ∧ s.wrote t (aluWidth s.osz f) (s.place (aluDst f)) r ∧ Q t r := by
  rw [← rmTouch_flags (w := aluWidth s.osz f) (rm := aluRm f) h] at hQ
  exact completes_written h (rmTouch_only h _ (aluRm f)) hi ht (hQ t)

theorem completes_unary (h : s.paged = true) {op : UnOp} {Q : State → BitVec w.bits → Prop}
    (hi : exec i s = .next (s.unary op w rm))
    (hQ : ∀ t : State, t.flags = (op _ (s.rmVal w rm) s.flags).2 → Q t (op _ (s.rmVal w rm) s.flags).1) :
    completes i s fun t => ∃ r, s.sameButData t ∧ s.wrote t w (s.place rm) r ∧ Q t r := by
  rw [← rmTouch_flags (w := w) (rm := rm) h] at hQ
  exact completes_written h (rmTouch_only h _ rm) hi (.inl rfl) (hQ _)

end Operands

/-! ### Addition and subtraction -/

section Tables

variable {n : Nat} (f : Eflags) (k : Nat)

theorem addTable_opAdc (hn : 4 ≤ n) (d v : BitVec n) :
    addTable d v f.cf (opAdc n d v f k).1 f (opAdc n d v f k).2 := by
  obtain ⟨m, rfl⟩ := Nat.exists_eq_add_of_le' hn
  exact addTable_chain d v f.cf f

theorem addTable_opAdd (hn : 4 ≤ n) (d v : BitVec n) :
    addTable d v false (opAdd n d v f k).1 f (opAdd n d v f k).2 := by
  obtain ⟨m, rfl⟩ := Nat.exists_eq_add_of_le' hn
  simpa [opAdd] using addTable_chain d v false f

theorem subTable_opSbb (hn : 4 ≤ n) (d v : BitVec n) :
    subTable d v f.cf (opSbb n d v f k).1 f (opSbb n d v f k).2 := by
  obtain ⟨m, rfl⟩ := Nat.exists_eq_add_of_le' hn
  exact subTable_chain d v f.cf f

theorem subTable_opSub (hn : 4 ≤ n) (d v : BitVec n) :
    subTable d v false (opSub n d v f k).1 f (opSub n d v f k).2 := by
  obtain ⟨m, rfl⟩ := Nat.exists_eq_add_of_le' hn
  simpa [opSub] using subTable_chain d v false f

/-- NEG overflows for the least signed value alone (40_alu_primitives R260). -/
theorem not_fitsSigned_neg (hn : 0 < n) (x : BitVec n) :
    (!fitsSigned n (-x.toInt)) = decide (x.toNat = 2 ^ (n - 1)) := by
  obtain ⟨m, rfl⟩ := Nat.exists_eq_add_of_le' hn
  have hx := x.isLt
  have hcast : ((2 : Int) ^ m) = ((2 ^ m : Nat) : Int) := by push_cast; rfl
  rw [BitVec.toInt_eq_toNat_cond, fitsSigned, Bool.eq_iff_iff]
  simp only [Nat.add_sub_cancel, hcast, pow_succ, Bool.not_eq_true', Bool.and_eq_false_iff, decide_eq_false_iff_not,
    decide_eq_true_eq] at hx ⊢
  generalize 2 ^ m = p at hx ⊢
  split <;> omega

/-- CF, OF and AF of NEG are those of a subtraction from 0 (40_alu_primitives R260). -/
theorem opNeg_flags (hn : 4 ≤ n) (x : BitVec n) :
    (opNeg n x f).2.cf = decide (x ≠ 0) ∧ (opNeg n x f).2.ovf = decide (x.toNat = 2 ^ (n - 1)) ∧
      (opNeg n x f).2.af = decide (x.toNat % 16 ≠ 0) := by
  obtain ⟨-, hcf, hovf, haf, -⟩ := subTable_opSub f 0 hn 0 x
  refine ⟨hcf.trans ?_, hovf.trans ?_, haf.trans ?_⟩
  · simp [BitVec.toNat_eq, Nat.pos_iff_ne_zero]
  · simpa using not_fitsSigned_neg (by omega) x
  · simp [Nat.pos_iff_ne_zero]

end Tables

/-- Settles O26: the carry chain of each gives the flags of its table. -/
theorem additionFollowsTruthTable : Obligations.AdditionFollowsTruthTable := by
  unfold Obligations.AdditionFollowsTruthTable
  intro f s h w d v
  have hn := four_le_bits w
  exact ⟨completes_alu h rfl (.inl rfl) fun t ht => ht ▸ addTable_opAdd _ _ hn d v,
    completes_alu h rfl (.inl rfl) fun t ht => ht ▸ addTable_opAdc _ _ hn d v⟩

/-- Settles O27: the borrow chain of each gives the flags of its table. -/
theorem subtractionFollowsTruthTable : Obligations.SubtractionFollowsTruthTable := by
  unfold Obligations.SubtractionFollowsTruthTable
  intro f s h w d v
  have hn := four_le_bits w
  refine ⟨completes_alu h rfl (.inl rfl) fun t ht => ht ▸ subTable_opSub _ _ hn d v,
    completes_alu h rfl (.inl rfl) fun t ht => ht ▸ subTable_opSbb _ _ hn d v,
    completes_compared (r := (opSub _ d v s.flags s.draws).1) (rmTouch_only h w (aluRm f)) rfl (.inl rfl)
      fun ht => ?_⟩
  rw [ht, State.aluResult, rmTouch_flags h]
  exact subTable_opSub _ _ hn d v

/-! ### Logic -/

theorem logicTable_logic {n : Nat} (f : Eflags) (r : BitVec n) (draw : Nat) : logicTable r f (f.logic r draw) :=
  ⟨rfl, rfl, ofResult_szp f r, rfl, rfl, rfl, rfl, rfl⟩

/-- Settles O28: each bit is that of the operation, and EFLAGS are those of `Eflags.logic`. -/
theorem logicResults : Obligations.LogicResults := by
  unfold Obligations.LogicResults
  intro f g s h w d v
  refine ⟨completes_alu h rfl (.inr rfl) fun t ht => ⟨fun k => BitVec.getLsbD_and, ht ▸ logicTable_logic _ _ _⟩,
    completes_alu h rfl (.inr rfl) fun t ht => ⟨fun k => BitVec.getLsbD_or, ht ▸ logicTable_logic _ _ _⟩,
    completes_alu h rfl (.inr rfl) fun t ht => ⟨fun k => ?_, ht ▸ logicTable_logic _ _ _⟩,
    completes_compared (rmTouch_only h _ (testRm g)) rfl (.inr rfl) fun ht => ⟨fun k => BitVec.getLsbD_and, ?_⟩⟩
  · exact BitVec.getLsbD_xor
  · rw [ht, State.testFlags, rmTouch_flags h]
    exact logicTable_logic _ _ _

/-! ### One operand -/

/-- Settles O29: INC and DEC are the addition and the subtraction of 1 but for CF, NEG is the subtraction from 0. -/
theorem unaryResults : Obligations.UnaryResults := by
  unfold Obligations.UnaryResults
  intro f w rm s h n d k x
  have hn := four_le_bits n
  have hk := four_le_bits k
  have hinc := completes_unary (i := .inc f) h rfl (Q := fun t r => ∃ g,
    addTable d (BitVec.ofNat n.bits 1) false r s.flags g ∧ t.flags = { g with cf := s.flags.cf })
    fun t ht => ⟨_, addTable_opAdd s.flags 0 hn d _, ht⟩
  have hdec := completes_unary (i := .dec f) h rfl (Q := fun t r => ∃ g,
    subTable d (BitVec.ofNat n.bits 1) false r s.flags g ∧ t.flags = { g with cf := s.flags.cf })
    fun t ht => ⟨_, subTable_opSub s.flags 0 hn d _, ht⟩
  have hnot := completes_unary (i := .not w rm) h rfl (Q := fun t r => t.flags = s.flags ∧
    ∀ j, j < k.bits → r.getLsbD j = !x.getLsbD j) fun t ht => ⟨ht, fun j hj => by simp [opNot, hj, x, k]⟩
  refine ⟨completes_mono hinc fun t ⟨r, hsame, hwrote, g, hg⟩ => ⟨r, g, hsame, hwrote, hg⟩,
    completes_mono hdec fun t ⟨r, hsame, hwrote, g, hg⟩ => ⟨r, g, hsame, hwrote, hg⟩,
    completes_unary h rfl fun t ht => ⟨ht ▸ subTable_opSub _ _ hk 0 x, ht ▸ opNeg_flags _ hk x⟩,
    completes_mono hnot fun t ⟨r, hsame, hwrote, hflags, hr⟩ => ⟨r, hsame, hflags, hwrote, hr⟩⟩

end Sys2Proof.Machine

/-! PROOFS. Multiply and divide (40_alu_primitives R285 to R289, 42_arithmetic_logic R414 to R419): the primitives as
arithmetic of naturals and integers, and what an instruction leaves that writes registers after its reads. -/

namespace Sys2Proof.Machine

/-! ### The products -/

section Products

variable {n : Nat}

theorem fitsSigned_iff {z : Int} : fitsSigned n z = true ↔ -2 ^ (n - 1) ≤ z ∧ z < 2 ^ (n - 1) := by
  simp [fitsSigned]

/-- An integer is that of its `n` low bits where it fits in them. -/
theorem toInt_ofInt_iff (hn : 0 < n) {z : Int} : (BitVec.ofInt n z).toInt = z ↔ fitsSigned n z = true := by
  rw [fitsSigned_iff]
  constructor
  · intro h
    rw [← h]
    exact ⟨BitVec.le_toInt _, BitVec.toInt_lt⟩
  · rintro ⟨hle, hlt⟩
    exact BitVec.toInt_ofInt_eq_self hn hle hlt

theorem toInt_ofInt_bne (hn : 0 < n) (z : Int) : ((BitVec.ofInt n z).toInt != z) = !fitsSigned n z := by
  rw [Bool.eq_iff_iff, bne_iff_ne, ne_eq, toInt_ofInt_iff hn, Bool.not_eq_true', Bool.not_eq_true]

/-- The halves of an unsigned product (40_alu_primitives R285). -/
theorem opMul_toNat (a x : BitVec n) :
    (opMul n a x).1.toNat * 2 ^ n + (opMul n a x).2.1.toNat = a.toNat * x.toNat := by
  have hlt : a.toNat * x.toNat / 2 ^ n < 2 ^ n :=
    Nat.div_lt_of_lt_mul (Nat.mul_lt_mul'' a.isLt x.isLt)
  simp only [opMul, BitVec.toNat_ofNat, Nat.mod_eq_of_lt hlt]
  exact Nat.div_add_mod' _ _

theorem opMul_big (a x : BitVec n) : (opMul n a x).2.2 = decide ((opMul n a x).1.toNat ≠ 0) := by
  rw [Bool.eq_iff_iff]
  simp [opMul, BitVec.toNat_eq]

/-- The halves of a signed product (40_alu_primitives R286). -/
theorem opImul_toInt (hn : 0 < n) (a x : BitVec n) :
    ((opImul n a x).1 ++ (opImul n a x).2.1).toInt = a.toInt * x.toInt := by
  have hle : -2 ^ (n * 2 - 2) ≤ a.toInt * x.toInt := BitVec.le_toInt_mul_toInt
  have hge : a.toInt * x.toInt ≤ 2 ^ (n * 2 - 2) := BitVec.toInt_mul_toInt_le
  obtain ⟨m, rfl⟩ := Nat.exists_eq_add_of_le' hn
  have hpow : (2 : Int) ^ ((m + 1) * 2 - 2) * 2 = 2 ^ m * 2 ^ (m + 1) := by
    rw [show (m + 1) * 2 - 2 = m + m by omega, pow_add, pow_succ, mul_assoc]
  have hpos : (0 : Int) < 2 ^ ((m + 1) * 2 - 2) := by positivity
  have hhigh : (opImul (m + 1) a x).1.toInt = a.toInt * x.toInt / 2 ^ (m + 1) := by
    refine BitVec.toInt_ofInt_eq_self hn ?_ ?_
    · rw [Int.le_ediv_iff_mul_le (by positivity), neg_mul, Nat.add_sub_cancel]
      linarith
    · rw [Int.ediv_lt_iff_lt_mul (by positivity), Nat.add_sub_cancel]
      linarith
  rw [BitVec.toInt_append, if_neg (by simp), hhigh, opImul, toNat_ofInt_emod]
  exact Int.mul_ediv_add_emod _ _

theorem opImul_big (hn : 0 < n) (a x : BitVec n) : (opImul n a x).2.2 = !fitsSigned n (a.toInt * x.toInt) :=
  toInt_ofInt_bne hn _

theorem opImul2_big (hn : 0 < n) (a x : BitVec n) : (opImul2 n a x).2 = !fitsSigned n (a.toInt * x.toInt) :=
  toInt_ofInt_bne hn _

/-- The truncated product is the product but for the bits beyond the width (40_alu_primitives R287). -/
theorem opImul2_toInt (a x : BitVec n) : ((opImul2 n a x).1.toInt - a.toInt * x.toInt) % 2 ^ n = 0 := by
  have hcast : ((2 : Int) ^ n) = ((2 ^ n : Nat) : Int) := by push_cast; rfl
  rw [← Int.emod_eq_emod_iff_emod_sub_eq_zero, opImul2, BitVec.toInt_ofInt, hcast, Int.bmod_emod]

end Products

/-! ### Writing registers after reads -/

section Registers

variable {s u : State} {i : Instr} {w : Width} {rm : RM}

theorem completes_setRegs (hu : s.onlyTouched u) {b : Bank} {f : Eflags}
    (hi : exec i s = .next ((u.setRegs b).setFlags f).drew) :
    completes i s fun t => s.sameButData t ∧ s.mem.kept t.mem ∧ t.regs = b ∧ t.flags = f := by
  obtain ⟨m, rfl, hkept, -⟩ := hu
  exact ⟨_, hi, ⟨⟨⟨⟨rfl, rfl, rfl, rfl, rfl⟩, rfl, rfl⟩, rfl⟩, rfl⟩, hkept, rfl, rfl⟩

/-- What a multiply writes in EFLAGS: CF and OF say whether the product is too `big` (40_alu_primitives R285). -/
def multiplyTable (big : Bool) (f f' : Eflags) : Prop := f'.cf = big ∧ f'.ovf = f'.cf ∧ f.sameControl f'

theorem multiplyTable_multiplied (f : Eflags) (draw : Nat) (big : Bool) :
    multiplyTable big f (f.multiplied draw big) := ⟨rfl, rfl, rfl, rfl, rfl, rfl, rfl⟩

theorem completes_multiply (h : s.paged = true)
    {op : (n : Nat) → BitVec n → BitVec n → BitVec n × BitVec n × Bool}
    {Q : State → BitVec w.bits → BitVec w.bits → Prop}
    (hi : exec i s = .next (s.multiply op w rm))
    (hQ : ∀ t : State,
      multiplyTable (op _ (s.regs.rn w .n0) (s.rmVal w rm)).2.2 s.flags t.flags →
      Q t (op _ (s.regs.rn w .n0) (s.rmVal w rm)).1 (op _ (s.regs.rn w .n0) (s.rmVal w rm)).2.1) :
    completes i s fun t => ∃ hi lo : BitVec w.bits, s.sameButData t ∧ s.mem.kept t.mem ∧
      t.regs = s.regs.setPair w hi lo ∧ Q t hi lo := by
  refine completes_mono (completes_setRegs (rmTouch_only h w rm) hi) fun t ⟨hsame, hmem, hregs, hflags⟩ => ?_
  rw [rmTouch_regs h] at hregs hflags
  rw [rmTouch_flags h] at hflags
  exact ⟨_, _, hsame, hmem, hregs, hQ t (hflags ▸ multiplyTable_multiplied _ _ _)⟩

theorem completes_multiplyInto (h : s.paged = true) {r : Num8} {b : BitVec w.bits}
    {Q : State → BitVec w.bits → Prop}
    (hi : exec i s = .next (s.multiplyInto w r rm b))
    (hQ : ∀ t : State, multiplyTable (opImul2 _ (s.rmVal w rm) b).2 s.flags t.flags →
      Q t (opImul2 _ (s.rmVal w rm) b).1) :
    completes i s fun t => ∃ v, s.sameButData t ∧ s.mem.kept t.mem ∧ t.regs = s.regs.setRn w r v ∧ Q t v := by
  refine completes_mono (completes_setRegs (rmTouch_only h w rm) hi) fun t ⟨hsame, hmem, hregs, hflags⟩ => ?_
  rw [rmTouch_regs h] at hregs
  rw [rmTouch_flags h] at hflags
  exact ⟨_, hsame, hmem, hregs, hQ t (hflags ▸ multiplyTable_multiplied _ _ _)⟩

end Registers

/-- Settles O30: the product of each multiply, and that CF and OF say whether its low half holds it. -/
theorem multiplyGivesProduct : Obligations.MultiplyGivesProduct := by
  unfold Obligations.MultiplyGivesProduct
  intro w rm r imm s h n o high a x b p2 p3
  have hn : 0 < n.bits := by have := four_le_bits n; omega
  have ho : 0 < o.bits := by have := four_le_bits o; omega
  have himul3 : exec (.imul3 r rm imm) s = .next (s.multiplyInto o r rm b) := by cases imm <;> rfl
  have hp2 : p2 = (s.rmVal o rm).toInt * (s.regs.rn o r).toInt := mul_comm _ _
  rw [hp2]
  exact ⟨completes_multiply h rfl fun t ⟨hcf, hrest⟩ => ⟨opMul_toNat a x, hcf.trans (opMul_big a x), hrest⟩,
    completes_multiply h rfl fun t ⟨hcf, hrest⟩ => ⟨opImul_toInt hn a x, hcf.trans (opImul_big hn a x), hrest⟩,
    completes_multiplyInto h rfl fun t ⟨hcf, hrest⟩ =>
      ⟨opImul2_toInt _ _, hcf.trans (opImul2_big ho _ _), hrest⟩,
    completes_multiplyInto h himul3 fun t ⟨hcf, hrest⟩ =>
      ⟨opImul2_toInt _ b, hcf.trans (opImul2_big ho _ b), hrest⟩⟩

/-! ### Quotient and remainder -/

section Quotients

variable {n : Nat} {x : BitVec n}

/-- The quotient of naturals where it fits (40_alu_primitives R288). -/
theorem opDiv_some {dd : Nat} (hx : x.toNat ≠ 0) (hq : dd / x.toNat < 2 ^ n) :
    ∃ q r : BitVec n, opDiv n dd x = some (q, r) ∧ dd = q.toNat * x.toNat + r.toNat ∧ r.toNat < x.toNat := by
  have hmod : dd % x.toNat < x.toNat := Nat.mod_lt _ (Nat.pos_of_ne_zero hx)
  have hx0 : x ≠ 0 := fun h => hx (by simp [h])
  refine ⟨_, _, by rw [opDiv, if_neg hx0, if_neg (Nat.not_le.2 hq)], ?_⟩
  rw [BitVec.toNat_ofNat, BitVec.toNat_ofNat, Nat.mod_eq_of_lt hq, Nat.mod_eq_of_lt (hmod.trans x.isLt)]
  exact ⟨(Nat.div_add_mod' _ _).symm, hmod⟩

theorem opDiv_none {dd : Nat} (h : x.toNat = 0 ∨ 2 ^ n ≤ dd / x.toNat) : opDiv n dd x = none := by
  unfold opDiv
  split
  · rfl
  · rename_i hx0
    exact if_pos (h.resolve_left fun hx => hx0 (BitVec.eq_of_toNat_eq (by simpa using hx)))

/-- A remainder of integers is smaller than the divisor and has the dividend's sign (40_alu_primitives R289). -/
theorem tmod_bounds (a : Int) {b : Int} (hb : b ≠ 0) :
    (a.tmod b).natAbs < b.natAbs ∧ (a.tmod b = 0 ∨ (a.tmod b < 0 ↔ a < 0)) := by
  refine ⟨?_, ?_⟩
  · rw [Int.natAbs_tmod]
    exact Nat.mod_lt _ (Int.natAbs_pos.2 hb)
  · have hsign := Int.sign_tmod a b
    split at hsign
    · exact .inl (Int.sign_eq_zero_iff_zero.1 hsign)
    · exact .inr (by rw [← Int.sign_eq_neg_one_iff_neg, hsign, Int.sign_eq_neg_one_iff_neg])

theorem fitsSigned_of_natAbs_lt {z : Int} (h : z.natAbs < x.toInt.natAbs) : fitsSigned n z = true := by
  have hle := BitVec.le_toInt x
  have hlt := BitVec.toInt_lt (x := x)
  rw [fitsSigned_iff]
  omega

theorem opIdiv_eq {dd : Int} (hx : x.toInt ≠ 0) : opIdiv n dd x =
    if fitsSigned n (dd.tdiv x.toInt) = true then
      some (BitVec.ofInt n (dd.tdiv x.toInt), BitVec.ofInt n (dd.tmod x.toInt)) else none := by
  have hx0 : x ≠ 0 := fun h => hx (by simp [h])
  rw [opIdiv, if_neg hx0, Int.tmod_def, mul_comm x.toInt, ← ite_not]
  congr 1
  simp [fitsSigned, or_iff_not_imp_left]

/-- The quotient of integers where it fits (40_alu_primitives R289). -/
theorem opIdiv_some (hn : 0 < n) {dd : Int} (hx : x.toInt ≠ 0) (hq : fitsSigned n (dd.tdiv x.toInt) = true) :
    ∃ q r : BitVec n, opIdiv n dd x = some (q, r) ∧ dd = q.toInt * x.toInt + r.toInt ∧
      r.toInt.natAbs < x.toInt.natAbs ∧ (r.toInt = 0 ∨ (r.toInt < 0 ↔ dd < 0)) := by
  have hbounds := tmod_bounds dd hx
  refine ⟨_, _, by rw [opIdiv_eq hx, if_pos hq], ?_⟩
  rw [(toInt_ofInt_iff hn).2 hq, (toInt_ofInt_iff hn).2 (fitsSigned_of_natAbs_lt hbounds.1)]
  exact ⟨(Int.tdiv_mul_add_tmod _ _).symm, hbounds⟩

theorem opIdiv_none {dd : Int} (h : x.toInt = 0 ∨ fitsSigned n (dd.tdiv x.toInt) = false) : opIdiv n dd x = none := by
  by_cases hx : x.toInt = 0
  · exact if_pos (BitVec.eq_of_toInt_eq (by simpa using hx))
  · rw [opIdiv_eq hx, h.resolve_left hx]
    rfl

end Quotients

section Divide

variable {s u : State} {i : Instr} {w : Width}

theorem completes_divided (hu : s.onlyTouched u) {q r : BitVec w.bits}
    (hi : exec i s = .next (u.divide w (some (q, r)))) :
    completes i s fun t => s.sameButData t ∧ s.mem.kept t.mem ∧ t.regs = s.regs.setPair w r q ∧
      s.flags.sameControl t.flags := by
  refine completes_mono (completes_setRegs hu hi) fun t ⟨hsame, hmem, hregs, hflags⟩ => ?_
  obtain ⟨m, rfl, -⟩ := hu
  exact ⟨hsame, hmem, hregs, hflags ▸ ⟨rfl, rfl, rfl, rfl, rfl⟩⟩

theorem completes_divideError (hu : s.onlyTouched u) (hi : exec i s = .next (u.divide w none)) :
    completes i s fun t => s.raised t ⟨0, .fault, false, true, 0⟩ :=
  ⟨_, hi, raised_of_onlyTouched hu .de⟩

end Divide

/-- Settles O31: quotient and remainder where the quotient fits, #DE where it does not or the divisor is 0. -/
theorem divisionResults : Obligations.DivisionResults := by
  unfold Obligations.DivisionResults
  intro w rm s h n high dd x
  have hn : 0 < n.bits := by have := four_le_bits n; omega
  have hu := rmTouch_only h n rm
  have hpair : (s.rmTouch n rm).regs.pair n = dd := by rw [rmTouch_regs h]; rfl
  have hdiv : exec (.div w rm) s = .next ((s.rmTouch n rm).divide n (opDiv n.bits dd.toNat x)) := by rw [← hpair]; rfl
  have hidiv : exec (.idiv w rm) s = .next ((s.rmTouch n rm).divide n (opIdiv n.bits dd.toInt x)) := by
    rw [← hpair]; rfl
  refine ⟨fun hx hq => ?_, fun hno => ?_, fun hx hq => ?_, fun hno => ?_⟩
  · obtain ⟨q, r, hqr, heq, hlt⟩ := opDiv_some hx hq
    exact completes_mono (completes_divided hu (hqr ▸ hdiv)) fun t ⟨hsame, hmem, hregs, hflags⟩ =>
      ⟨q, r, hsame, hmem, hregs, heq, hlt, hflags⟩
  · exact completes_divideError hu (opDiv_none hno ▸ hdiv)
  · obtain ⟨q, r, hqr, heq, hlt, hsign⟩ := opIdiv_some hn hx hq
    exact completes_mono (completes_divided hu (hqr ▸ hidiv)) fun t ⟨hsame, hmem, hregs, hflags⟩ =>
      ⟨q, r, hsame, hmem, hregs, heq, hlt, hsign, hflags⟩
  · exact completes_divideError hu (opIdiv_none hno ▸ hidiv)

end Sys2Proof.Machine

/-! PROOFS. Shifts (40_alu_primitives R270 to R273, R278, R279, 42_arithmetic_logic R425 to R429): a double shift is the
middle of the two operands put together, SHL and SHR are double shifts through 0, and SAR divides an integer. -/

namespace Sys2Proof.Machine

/-! ### What an instruction leaves that shifts an operand -/

section Operands

variable {s : State} {i : Instr} {w : Width} {rm : RM}

/-- What `State.shift` leaves: the primitive's result at the operand, and its flags. -/
theorem completes_shift (h : s.paged = true) {op : ShiftOp} {c : ShCount} {Q : State → BitVec w.bits → Prop}
    (hi : exec i s = .next (s.shift op w rm c))
    (hQ : ∀ t : State, t.flags = (op _ (s.rmVal w rm) (s.shCount c) s.flags s.draws).2 →
      Q t (op _ (s.rmVal w rm) (s.shCount c) s.flags s.draws).1) :
    completes i s fun t => ∃ r, s.sameButData t ∧ s.wrote t w (s.place rm) r ∧ Q t r := by
  rw [← rmTouch_flags (w := w) (rm := rm) h] at hQ
  exact completes_written h (rmTouch_only h _ rm) hi (.inr rfl) (hQ _)

theorem completes_doubleShift (h : s.paged = true)
    {op : (n : Nat) → BitVec n → BitVec n → Nat → Eflags → Nat → BitVec n × Eflags}
    {x : Num8} {c : DShCount} {Q : State → BitVec s.osz.width.bits → Prop}
    (hi : exec i s = .next (s.doubleShift op rm x c))
    (hQ : ∀ t : State,
      t.flags = (op _ (s.rmVal s.osz.width rm) (s.regs.rn s.osz.width x) (s.dshCount c) s.flags s.draws).2 →
      Q t (op _ (s.rmVal s.osz.width rm) (s.regs.rn s.osz.width x) (s.dshCount c) s.flags s.draws).1) :
    completes i s fun t => ∃ r, s.sameButData t ∧ s.wrote t s.osz.width (s.place rm) r ∧ Q t r := by
  rw [← rmTouch_flags (w := s.osz.width) (rm := rm) h, ← rmTouch_regs (w := s.osz.width) (rm := rm) h] at hQ
  exact completes_written h (rmTouch_only h _ rm) hi (.inr rfl) (hQ _)

end Operands

section Shifts

variable {n k : Nat} (d v : BitVec n) (f : Eflags) (draw : Nat)

/-! ### The flags of a shift -/

/-- What a shift by `k` with the result `r` writes in EFLAGS: nothing for a count of 0, else SetSZP and CF, and OF for a
count of 1 (40_alu_primitives R270). -/
def shiftTable {n : Nat} (k : Nat) (r : BitVec n) (cf ovf : Bool) (f f' : Eflags) : Prop :=
  (k = 0 → f' = f) ∧
  (k ≠ 0 → f'.ofResult r ∧ f.sameControl f' ∧ f'.cf = cf ∧ (k = 1 → f'.ovf = ovf))

theorem shiftTable_zero (r : BitVec n) (cf ovf : Bool) : shiftTable 0 r cf ovf f f :=
  ⟨fun _ => rfl, fun h => absurd rfl h⟩

theorem shiftTable_shifted (hk : k ≠ 0) (r : BitVec n) (cf : Bool) {ovf o : Bool} (ho : k = 1 → o = ovf) :
    shiftTable k r cf ovf f (f.shifted draw r cf o) :=
  ⟨fun h => absurd h hk, fun _ => ⟨ofResult_szp f r, ⟨rfl, rfl, rfl, rfl, rfl⟩, rfl, ho⟩⟩

theorem shiftOvf_one {ovf : Bool} (h : k = 1) : shiftOvf draw k ovf = ovf := if_pos h

/-! ### Two operands -/

/-- The middle of two operands put together, `k` bits above the end. -/
theorem toNat_funnel (hi lo : BitVec n) (hk : k ≤ n) :
    ((lo >>> k) ||| (hi <<< (n - k))).toNat = (hi.toNat * 2 ^ n + lo.toNat) / 2 ^ k % 2 ^ n := by
  have heq : (lo >>> k) ||| (hi <<< (n - k)) = ((hi ++ lo) >>> k).setWidth n := by
    refine BitVec.eq_of_getLsbD_eq fun j hj => ?_
    rw [BitVec.getLsbD_or, BitVec.getLsbD_ushiftRight, BitVec.getLsbD_shiftLeft, BitVec.getLsbD_setWidth,
      BitVec.getLsbD_ushiftRight, BitVec.getLsbD_append]
    by_cases hjk : k + j < n
    · simp [hj, hjk, show j < n - k by omega]
    · rw [BitVec.getLsbD_of_ge lo (k + j) (by omega), show k + j - n = j - (n - k) by omega]
      simp [hj, hjk, show ¬j < n - k by omega]
  rw [heq, BitVec.toNat_setWidth, BitVec.toNat_ushiftRight, BitVec.toNat_append, Nat.shiftRight_eq_div_pow,
    ← Nat.shiftLeft_add_eq_or_of_lt lo.isLt, Nat.shiftLeft_eq]

theorem opShld_fst (hk : k < n) : (opShld n d v k f draw).1 = (d <<< k) ||| (v >>> (n - k)) := by
  by_cases h0 : k = 0
  · simp [opShld, h0, BitVec.ushiftRight_eq_zero]
  · simp [opShld, h0, hk]

theorem opShrd_fst (hk : k < n) : (opShrd n d v k f draw).1 = (d >>> k) ||| (v <<< (n - k)) := by
  by_cases h0 : k = 0
  · simp [opShrd, h0]
  · simp [opShrd, h0, hk]

/-- SHLD by less than the width (40_alu_primitives R278). -/
theorem opShld_toNat (hk : k < n) :
    (opShld n d v k f draw).1.toNat = (d.toNat * 2 ^ n + v.toNat) * 2 ^ k / 2 ^ n % 2 ^ n := by
  have hfunnel := toNat_funnel d v (Nat.sub_le n k)
  have hpow : 2 ^ n = 2 ^ (n - k) * 2 ^ k := by rw [← pow_add, Nat.sub_add_cancel hk.le]
  rw [Nat.sub_sub_self hk.le, BitVec.or_comm] at hfunnel
  rw [opShld_fst d v f draw hk, hfunnel]
  generalize d.toNat * 2 ^ n + v.toNat = x
  conv_rhs => rw [hpow, Nat.mul_div_mul_right _ _ (Nat.two_pow_pos k), ← hpow]

/-- SHRD by less than the width (40_alu_primitives R279). -/
theorem opShrd_toNat (hk : k < n) :
    (opShrd n d v k f draw).1.toNat = (v.toNat * 2 ^ n + d.toNat) / 2 ^ k % 2 ^ n := by
  rw [opShrd_fst d v f draw hk]
  exact toNat_funnel v d hk.le

/-- Beyond the width nothing is left (40_alu_primitives R278, R279). -/
theorem opShld_beyond (hn : 0 < n) (hk : n ≤ k) : (opShld n d v k f draw).1.toNat = 0 := by
  simp [opShld, show k ≠ 0 by omega, show ¬k < n by omega]

theorem opShrd_beyond (hn : 0 < n) (hk : n ≤ k) : (opShrd n d v k f draw).1.toNat = 0 := by
  simp [opShrd, show k ≠ 0 by omega, show ¬k < n by omega]

/-- CF of SHLD is the last bit shifted out; OF says whether the top bit changed (40_alu_primitives R278). -/
theorem opShld_flags (hn : 1 < n) :
    shiftTable k (opShld n d v k f draw).1 (decide (k ≤ n) && d.getLsbD (n - k))
      ((opShld n d v k f draw).1.getLsbD (n - 1) != (opShld n d v k f draw).2.cf) f (opShld n d v k f draw).2 := by
  unfold opShld
  split
  · rename_i hk
    exact hk ▸ shiftTable_zero f _ _ _
  · rename_i hk
    split
    · rename_i hlt
      rw [decide_eq_true hlt.le, Bool.true_and]
      exact shiftTable_shifted f draw hk _ _ fun h1 =>
        (shiftOvf_one draw h1).trans (congrArg (· != _) (BitVec.msb_eq_getLsbD_last _))
    · rename_i hlt
      have hcf : (decide (k ≤ n) && d.getLsbD (n - k)) = (k == n && d.getLsbD 0) := by
        by_cases hkn : k = n
        · simp [hkn]
        · simp [hkn, show ¬k ≤ n by omega]
      rw [hcf]
      exact shiftTable_shifted f draw hk _ _ fun h1 => by omega

/-- CF of SHRD is the last bit shifted out; OF says whether the top bit changed (40_alu_primitives R279). -/
theorem opShrd_flags (hn : 1 < n) :
    shiftTable k (opShrd n d v k f draw).1 (d.getLsbD (k - 1))
      ((opShrd n d v k f draw).1.getLsbD (n - 1) != (opShrd n d v k f draw).1.getLsbD (n - 2))
      f (opShrd n d v k f draw).2 := by
  unfold opShrd
  split
  · rename_i hk
    exact hk ▸ shiftTable_zero f _ _ _
  · rename_i hk
    split
    · exact shiftTable_shifted f draw hk _ _ fun h1 =>
        (shiftOvf_one draw h1).trans (congrArg (· != _) (BitVec.msb_eq_getLsbD_last _))
    · rename_i hlt
      have hcf : d.getLsbD (k - 1) = (k == n && d.msb) := by
        by_cases hkn : k = n
        · simp [hkn, BitVec.msb_eq_getLsbD_last]
        · simp [hkn, BitVec.getLsbD_of_ge d (k - 1) (by omega)]
      rw [hcf]
      exact shiftTable_shifted f draw hk _ _ fun h1 => by omega

/-! ### One operand: a shift through 0 -/

theorem opShl_eq_opShld : opShl n d k f draw = opShld n d 0 k f draw := by
  simp [opShl, opShld]

/-- The two rules for OF agree for a count of 1 (40_alu_primitives R272, R279). -/
theorem top_bits_ushiftRight_one (hn : 1 < n) :
    ((d >>> 1).getLsbD (n - 1) != (d >>> 1).getLsbD (n - 2)) = d.getLsbD (n - 1) := by
  simp [show 1 + (n - 1) = n by omega, show 1 + (n - 2) = n - 1 by omega]

theorem opShr_eq_opShrd (hn : 1 < n) : opShr n d k f draw = opShrd n d 0 k f draw := by
  have hovf : shiftOvf draw k d.msb = shiftOvf draw k ((d >>> k).msb ^^ (d >>> k).getLsbD (n - 2)) := by
    by_cases h1 : k = 1
    · rw [h1, BitVec.msb_eq_getLsbD_last, BitVec.msb_eq_getLsbD_last]
      exact congrArg _ (top_bits_ushiftRight_one d hn).symm
    · simp [shiftOvf, h1]
  simp [opShr, opShrd, hovf]

/-- SHL multiplies (40_alu_primitives R271). -/
theorem opShl_toNat (hn : 0 < n) : (opShl n d k f draw).1.toNat = d.toNat * 2 ^ k % 2 ^ n := by
  rw [opShl_eq_opShld]
  by_cases hk : k < n
  · simp [opShld_fst d _ f draw hk, Nat.shiftLeft_eq]
  · rw [opShld_beyond d 0 f draw hn (Nat.not_lt.1 hk)]
    exact (Nat.mod_eq_zero_of_dvd ((pow_dvd_pow 2 (Nat.not_lt.1 hk)).mul_left _)).symm

theorem opShl_flags (hn : 1 < n) :
    shiftTable k (opShl n d k f draw).1 (decide (k ≤ n) && d.getLsbD (n - k))
      ((opShl n d k f draw).1.getLsbD (n - 1) != (opShl n d k f draw).2.cf) f (opShl n d k f draw).2 := by
  rw [opShl_eq_opShld]
  exact opShld_flags d 0 f draw hn

/-- SHR divides (40_alu_primitives R272). -/
theorem opShr_toNat (hn : 1 < n) : (opShr n d k f draw).1.toNat = d.toNat / 2 ^ k := by
  rw [opShr_eq_opShrd d f draw hn]
  by_cases hk : k < n
  · simp [opShrd_fst d _ f draw hk, Nat.shiftRight_eq_div_pow]
  · rw [opShrd_beyond d 0 f draw (by omega) (Nat.not_lt.1 hk)]
    exact (Nat.div_eq_of_lt (d.isLt.trans_le (Nat.pow_le_pow_right (by omega) (Nat.not_lt.1 hk)))).symm

/-- OF of SHR by 1 is the top bit of the operand (40_alu_primitives R272). -/
theorem opShr_flags (hn : 1 < n) :
    shiftTable k (opShr n d k f draw).1 (d.getLsbD (k - 1)) (d.getLsbD (n - 1)) f (opShr n d k f draw).2 := by
  have htable := opShrd_flags (k := k) d 0 f draw hn
  rw [← opShr_eq_opShrd d f draw hn] at htable
  obtain ⟨hzero, hflags⟩ := htable
  refine ⟨hzero, fun hk => ?_⟩
  obtain ⟨hresult, hcontrol, hcf, hovf⟩ := hflags hk
  refine ⟨hresult, hcontrol, hcf, fun h1 => (hovf h1).trans ?_⟩
  subst h1
  rw [← top_bits_ushiftRight_one d hn, opShr, if_neg hk, if_pos hn]

/-! ### The arithmetic right shift -/

/-- Beyond the width the sign alone is left (40_alu_primitives R273). -/
theorem sshiftRight_of_le (hk : n ≤ k) : d.sshiftRight k = if d.msb then ~~~0 else 0 := by
  ext j hj
  rw [BitVec.getElem_sshiftRight, dif_neg (by omega)]
  cases d.msb <;> simp

theorem opSar_fst : (opSar n d k f draw).1 = d.sshiftRight k := by
  unfold opSar
  split
  · rename_i hk
    simp [hk]
  · split
    · rfl
    · rename_i hk
      exact (sshiftRight_of_le d (Nat.not_lt.1 hk)).symm

/-- Bit 0 says whether a value is odd. -/
theorem getLsbD_zero_eq_toInt (hn : 0 < n) : d.getLsbD 0 = decide (d.toInt % 2 = 1) := by
  obtain ⟨m, rfl⟩ := Nat.exists_eq_add_of_le' hn
  rw [BitVec.getLsbD, Nat.testBit_zero, BitVec.toInt_eq_toNat_cond, decide_eq_decide, pow_succ]
  generalize 2 ^ m = p
  split <;> omega

theorem toInt_sshiftRight_div : (d.sshiftRight k).toInt = d.toInt / 2 ^ k := by
  rw [BitVec.toInt_sshiftRight, Int.shiftRight_eq_div_pow]
  norm_cast

/-- The last bit shifted out of a value with its sign repeated above it (40_alu_primitives R273). -/
theorem odd_div_eq (hn : 0 < n) :
    decide (d.toInt / 2 ^ k % 2 = 1) = if k < n then d.getLsbD k else d.msb := by
  rw [← toInt_sshiftRight_div, ← getLsbD_zero_eq_toInt _ hn, BitVec.getLsbD_sshiftRight]
  simp [Nat.pos_iff_ne_zero.1 hn]

/-- CF of SAR is the last bit shifted out, and OF by 1 is clear (40_alu_primitives R273). -/
theorem opSar_flags (hn : 1 < n) :
    shiftTable k (opSar n d k f draw).1 (decide (d.toInt / 2 ^ (k - 1) % 2 = 1)) false f (opSar n d k f draw).2 := by
  rw [odd_div_eq d (by omega)]
  unfold opSar
  split
  · rename_i hk
    exact hk ▸ shiftTable_zero f _ _ _
  · rename_i hk
    split
    · rw [if_pos (by omega)]
      exact shiftTable_shifted f draw hk _ _ (shiftOvf_one draw)
    · have hcf : (if k - 1 < n then d.getLsbD (k - 1) else d.msb) = d.msb := by
        rw [ite_eq_right_iff, BitVec.msb_eq_getLsbD_last]
        exact fun hlt => congrArg _ (by omega)
      rw [hcf]
      exact shiftTable_shifted f draw hk _ _ fun h1 => by omega

end Shifts

/-- Settles O32: SHL and SHR multiply and divide naturals, SAR divides integers, and each writes its flags. -/
theorem shiftResults : Obligations.ShiftResults := by
  unfold Obligations.ShiftResults
  intro w rm c s h n d k
  have hn : 1 < n.bits := by have := four_le_bits n; omega
  have hk : s.shCount c = k := by cases c <;> rfl
  refine ⟨completes_shift h rfl fun t ht => ?_, completes_shift h rfl fun t ht => ?_,
    completes_shift h rfl fun t ht => ?_⟩ <;> rw [ht, hk]
  · exact ⟨opShl_toNat d _ _ (by omega), opShl_flags d _ _ hn⟩
  · exact ⟨opShr_toNat d _ _ hn, opShr_flags d _ _ hn⟩
  · exact ⟨(congrArg BitVec.toInt (opSar_fst d _ _)).trans (toInt_sshiftRight_div d), opSar_flags d _ _ hn⟩

/-- Settles O34: each is the middle of the two operands put together, and what is beyond the width is 0. -/
theorem doubleShiftResults : Obligations.DoubleShiftResults := by
  unfold Obligations.DoubleShiftResults
  intro rm x c s h n d v k
  have hn : 1 < n.bits := by have := four_le_bits n; omega
  have hk : s.dshCount c = k := by cases c <;> rfl
  refine ⟨completes_doubleShift h rfl fun t ht => ?_, completes_doubleShift h rfl fun t ht => ?_⟩ <;> rw [ht, hk]
  · exact ⟨opShld_toNat d v _ _, opShld_beyond d v _ _ (by omega), opShld_flags d v _ _ hn⟩
  · exact ⟨opShrd_toNat d v _ _, opShrd_beyond d v _ _ (by omega), opShrd_flags d v _ _ hn⟩

end Sys2Proof.Machine

/-! PROOFS. Rotates (40_alu_primitives R274 to R277, 42_arithmetic_logic R421 to R424): each is a rotation of the
operand or of CF and the operand put together, and writes CF and OF alone. -/

namespace Sys2Proof.Machine

section Rotates

variable {n k : Nat} (d : BitVec n) (full : Bool) (f : Eflags) (draw : Nat)

/-! ### Where each bit goes -/

theorem getLsbD_rotateLeft_shifted {j : Nat} (hj : j < n) :
    (d.rotateLeft k).getLsbD ((j + k % n) % n) = d.getLsbD j := by
  have hm : k % n < n := Nat.mod_lt _ (by omega)
  rw [BitVec.getLsbD_rotateLeft]
  by_cases hlt : j + k % n < n
  · rw [Nat.mod_eq_of_lt hlt]
    simp [hlt]
  · rw [show (j + k % n) % n = j + k % n - n by rw [Nat.mod_eq_sub_mod (by omega), Nat.mod_eq_of_lt (by omega)]]
    simp [show j + k % n - n < k % n by omega, show n - k % n + (j + k % n - n) = j by omega]

theorem getLsbD_rotateRight_shifted {j : Nat} (hj : j < n) :
    (d.rotateRight k).getLsbD j = d.getLsbD ((j + k % n) % n) := by
  have hm : k % n < n := Nat.mod_lt _ (by omega)
  rw [BitVec.getLsbD_rotateRight]
  by_cases hlt : j + k % n < n
  · rw [Nat.mod_eq_of_lt hlt]
    simp [show j < n - k % n by omega, Nat.add_comm]
  · rw [show (j + k % n) % n = j + k % n - n by rw [Nat.mod_eq_sub_mod (by omega), Nat.mod_eq_of_lt (by omega)]]
    simp [show ¬j < n - k % n by omega, hj, show j - (n - k % n) = j + k % n - n by omega]

/-- A full turn moves no bit. -/
theorem rotateLeft_of_mod_eq_zero (h : k % n = 0) : d.rotateLeft k = d := by
  simp [BitVec.rotateLeft_def, h, BitVec.ushiftRight_eq_zero]

theorem rotateRight_of_mod_eq_zero (h : k % n = 0) : d.rotateRight k = d := by
  simp [BitVec.rotateRight_def, h, BitVec.shiftLeft_eq_zero]

/-! ### ROL and ROR -/

/-- What a rotate by `m`, the count modulo the width, writes in EFLAGS: the flags of a full turn for 0, else CF and OF,
and OF is defined for 1 (40_alu_primitives R274, R275). -/
def rotateTable (m : Nat) (turn : Eflags) (cf ovf : Bool) (f f' : Eflags) : Prop :=
  (m = 0 → f' = turn) ∧ (m ≠ 0 → f' = { f with cf := cf, ovf := f'.ovf }) ∧ (m = 1 → f'.ovf = ovf)

/-- EFLAGS after a full turn: CF is the bit given where ROT_FULL_UPDATES_CF says so (40_alu_primitives R274, R275). -/
def fullTurn (k : Nat) (full : Bool) (bit : Bool) (f : Eflags) : Eflags :=
  { f with cf := if k ≠ 0 ∧ full = true then bit else f.cf }

theorem fullTurn_zero (bit : Bool) : fullTurn 0 full bit f = f := by simp [fullTurn]

theorem fullTurn_pos (hk : k ≠ 0) (bit : Bool) :
    fullTurn k full bit f = if full then { f with cf := bit } else f := by
  cases full <;> simp [fullTurn, hk]

theorem rotateTable_turn {m : Nat} (hm : m = 0) (turn : Eflags) (cf ovf : Bool) : rotateTable m turn cf ovf f turn :=
  ⟨fun _ => rfl, fun h => absurd hm h, fun h => by omega⟩

theorem rotateTable_rotated {m : Nat} (hm : m ≠ 0) (turn : Eflags) (cf ovf : Bool) :
    rotateTable m turn cf ovf f { f with cf := cf, ovf := shiftOvf draw m ovf } :=
  ⟨fun h => absurd h hm, fun _ => rfl, shiftOvf_one draw⟩

theorem opRol_fst : (opRol n full d k f draw).1 = d.rotateLeft k := by
  unfold opRol
  dsimp only
  split
  · rename_i hk
    exact (rotateLeft_of_mod_eq_zero d (by simp [hk])).symm
  · split
    · exact (rotateLeft_of_mod_eq_zero d ‹_›).symm
    · exact BitVec.rotateLeft_def.symm

theorem opRor_fst : (opRor n full d k f draw).1 = d.rotateRight k := by
  unfold opRor
  dsimp only
  split
  · rename_i hk
    exact (rotateRight_of_mod_eq_zero d (by simp [hk])).symm
  · split
    · exact (rotateRight_of_mod_eq_zero d ‹_›).symm
    · exact BitVec.rotateRight_def.symm

theorem opRol_flags :
    rotateTable (k % n) (fullTurn k full (d.getLsbD 0) f) ((opRol n full d k f draw).1.getLsbD 0)
      ((opRol n full d k f draw).1.getLsbD (n - 1) != (opRol n full d k f draw).1.getLsbD 0)
      f (opRol n full d k f draw).2 := by
  unfold opRol
  dsimp only
  split
  · rename_i hk
    rw [hk, fullTurn_zero]
    exact rotateTable_turn f (Nat.zero_mod n) _ _ _
  · rename_i hk
    split
    · rename_i hm
      rw [fullTurn_pos full f hk]
      exact rotateTable_turn f hm _ _ _
    · rename_i hm
      rw [← BitVec.msb_eq_getLsbD_last]
      exact rotateTable_rotated f draw hm _ _ _

theorem opRor_flags :
    rotateTable (k % n) (fullTurn k full (d.getLsbD (n - 1)) f) ((opRor n full d k f draw).1.getLsbD (n - 1))
      ((opRor n full d k f draw).1.getLsbD (n - 1) != (opRor n full d k f draw).1.getLsbD (n - 2))
      f (opRor n full d k f draw).2 := by
  simp only [← BitVec.msb_eq_getLsbD_last]
  unfold opRor
  dsimp only
  split
  · rename_i hk
    rw [hk, fullTurn_zero]
    exact rotateTable_turn f (Nat.zero_mod n) _ _ _
  · rename_i hk
    split
    · rename_i hm
      rw [fullTurn_pos full f hk]
      exact rotateTable_turn f hm _ _ _
    · rename_i hm
      exact rotateTable_rotated f draw hm _ _ _

/-! ### RCL and RCR -/

theorem rotCarryLeft_eq (cf : Bool) {m : Nat} (hm : m < n + 1) :
    rotCarryLeft cf d m = (BitVec.cons cf d).rotateLeft m := by
  rw [BitVec.rotateLeft_def, Nat.mod_eq_of_lt hm]
  rfl

/-- To the right by `m` is to the left by the rest of the turn (40_alu_primitives R277). -/
theorem rotCarryLeft_sub_eq (cf : Bool) {m : Nat} (hm : m < n + 1) :
    rotCarryLeft cf d (n + 1 - m) = (BitVec.cons cf d).rotateRight m := by
  rw [BitVec.rotateRight_def, Nat.mod_eq_of_lt hm, BitVec.or_comm]
  exact congrArg (fun j => _ ||| _ >>> j) (Nat.sub_sub_self hm.le)

/-- CF and the operand together are rotated (40_alu_primitives R276). -/
theorem opRcl_cons :
    BitVec.cons (opRcl n d k f draw).2.cf (opRcl n d k f draw).1 = (BitVec.cons f.cf d).rotateLeft k := by
  unfold opRcl
  dsimp only
  split
  · exact (rotateLeft_of_mod_eq_zero _ ‹_›).symm
  · rw [rotCarryLeft_eq d f.cf (Nat.mod_lt _ (Nat.succ_pos n)), BitVec.rotateLeft_mod_eq_rotateLeft]
    exact BitVec.cons_msb_setWidth _

theorem opRcr_cons :
    BitVec.cons (opRcr n d k f draw).2.cf (opRcr n d k f draw).1 = (BitVec.cons f.cf d).rotateRight k := by
  unfold opRcr
  dsimp only
  split
  · exact (rotateRight_of_mod_eq_zero _ ‹_›).symm
  · rw [rotCarryLeft_sub_eq d f.cf (Nat.mod_lt _ (Nat.succ_pos n)), BitVec.rotateRight_mod_eq_rotateRight]
    exact BitVec.cons_msb_setWidth _

/-- What a rotate through CF by `m`, the count modulo the width plus one, writes in EFLAGS: CF and OF alone, and OF is
defined for 1 (40_alu_primitives R276, R277). -/
def carryRotateTable (m : Nat) (ovf : Bool) (f f' : Eflags) : Prop :=
  (m = 0 → f' = f) ∧ f' = { f with cf := f'.cf, ovf := f'.ovf } ∧ (m = 1 → f'.ovf = ovf)

theorem carryRotateTable_turn {m : Nat} (hm : m = 0) (ovf : Bool) : carryRotateTable m ovf f f :=
  ⟨fun _ => rfl, rfl, fun h => by omega⟩

theorem carryRotateTable_rotated {m : Nat} (hm : m ≠ 0) (cf ovf : Bool) :
    carryRotateTable m ovf f { f with cf := cf, ovf := shiftOvf draw m ovf } :=
  ⟨fun h => absurd h hm, rfl, shiftOvf_one draw⟩

theorem opRcl_flags :
    carryRotateTable (k % (n + 1)) ((opRcl n d k f draw).1.getLsbD (n - 1) != (opRcl n d k f draw).2.cf)
      f (opRcl n d k f draw).2 := by
  unfold opRcl
  dsimp only
  split
  · exact carryRotateTable_turn f ‹_› _
  · rw [← BitVec.msb_eq_getLsbD_last]
    exact carryRotateTable_rotated f draw ‹_› _ _

theorem opRcr_flags :
    carryRotateTable (k % (n + 1)) ((opRcr n d k f draw).1.getLsbD (n - 1) != (opRcr n d k f draw).1.getLsbD (n - 2))
      f (opRcr n d k f draw).2 := by
  unfold opRcr
  dsimp only
  split
  · exact carryRotateTable_turn f ‹_› _
  · rw [← BitVec.msb_eq_getLsbD_last]
    exact carryRotateTable_rotated f draw ‹_› _ _

end Rotates

/-- Settles O33: the bits of each are those of a rotation, and its flags those of its table. -/
theorem rotateResults : Obligations.RotateResults := by
  unfold Obligations.RotateResults
  intro w rm c s h n d k m mc turn turnR
  have hk : s.shCount c = k := by cases c <;> rfl
  refine ⟨completes_shift h rfl fun t ht => ?_, completes_shift h rfl fun t ht => ?_,
    completes_shift h rfl fun t ht => ?_, completes_shift h rfl fun t ht => ?_⟩ <;> rw [ht, hk]
  · refine ⟨fun i hi => ?_, opRol_flags d _ _ _⟩
    rw [opRol_fst]
    exact getLsbD_rotateLeft_shifted d hi
  · refine ⟨fun i hi => ?_, opRor_flags d _ _ _⟩
    rw [opRor_fst]
    exact getLsbD_rotateRight_shifted d hi
  · refine ⟨fun i hi => ?_, opRcl_flags d _ _⟩
    rw [opRcl_cons]
    exact getLsbD_rotateLeft_shifted _ hi
  · refine ⟨fun i hi => ?_, opRcr_flags d _ _⟩
    rw [opRcr_cons]
    exact getLsbD_rotateRight_shifted _ hi

end Sys2Proof.Machine

/-! PROOFS. Moves, exchanges, conversions, byte sets and stores of system registers (41_data_movement R321 to R329, R341
to R346, R356, 45_system R590 to R595, R604): none of them changes more than registers and memory. -/

namespace Sys2Proof.Machine

/-! ### Operations that change registers and memory alone -/

section Data

variable {s t u : State} {w : Width}

/-- Nothing but general registers and memory differs, and the memory left is in canonical form. -/
def State.onlyData (s t : State) : Prop := t = (s.setRegs t.regs).setMem t.mem ∧ t.mem.wf = true

theorem onlyData_refl (h : s.paged = true) : s.onlyData s := ⟨rfl, State.paged_wf h⟩

theorem onlyData_paged (h : s.paged = true) (ht : s.onlyData t) : t.paged = true := by
  have hio := State.paged_io h
  refine State.paged_iff.2 ⟨?_, ht.2⟩
  rw [ht.1]
  exact hio

theorem onlyData_segs (ht : s.onlyData t) : t.segs = s.segs := by
  rw [ht.1]
  rfl

theorem onlyData_trans (ht : s.onlyData t) (hu : t.onlyData u) : s.onlyData u := by
  obtain ⟨heq, -⟩ := ht
  obtain ⟨hequ, hw⟩ := hu
  refine ⟨?_, hw⟩
  rw [heq] at hequ
  exact hequ

theorem onlyData_leaves (ht : s.onlyData t) : s.sameButData t ∧ t.flags = s.flags := by
  rw [ht.1]
  exact ⟨⟨⟨⟨⟨rfl, rfl, rfl, rfl, rfl⟩, rfl, rfl⟩, rfl⟩, rfl⟩, rfl⟩

theorem onlyTouched_onlyData (hu : s.onlyTouched u) : s.onlyData u := by
  obtain ⟨m, rfl, -, hw⟩ := hu
  exact ⟨rfl, hw⟩

theorem setRegs_onlyData (h : s.paged = true) (b : Bank) : s.onlyData (s.setRegs b) := ⟨rfl, State.paged_wf h⟩

theorem setReg_onlyData (h : s.paged = true) (r : Num8) (v : BitVec w.bits) : s.onlyData (s.setReg w r v) :=
  setRegs_onlyData h _

theorem segStore_onlyData (h : s.paged = true) (g : Seg) (off : Word) (v : BitVec w.bits) :
    s.onlyData (s.segStore w g off v) := by
  rw [segStore_paged (State.paged_io h)]
  exact ⟨rfl, Memory.wf_store (State.paged_wf h) _ _ _⟩

theorem placeStore_onlyData (h : s.paged = true) (p : Place) (v : BitVec w.bits) :
    s.onlyData (s.placeStore w p v) := by
  cases p with
  | reg r => exact setReg_onlyData h r v
  | mem g off => exact segStore_onlyData h g off v

end Data

/-! ### Moves -/

section Moved

variable {s u : State} {i : Instr} {w : Width}

/-- What an instruction leaves that reads and then writes `v` to the operand at `p`. -/
theorem completes_moved (h : s.paged = true) (hu : s.onlyTouched u) {p : Place} {v : BitVec w.bits}
    (hi : exec i s = .next (u.placeStore w p v)) :
    completes i s fun t => s.sameButData t ∧ t.flags = s.flags ∧ s.wrote t w p v := by
  obtain ⟨hsame, hflags⟩ := onlyData_leaves
    (onlyData_trans (onlyTouched_onlyData hu) (placeStore_onlyData (onlyTouched_paged h hu) p v))
  exact ⟨_, hi, hsame, hflags, placeStore_wrote h hu w p v⟩

/-- The same without a read before the write. -/
theorem completes_stored (h : s.paged = true) {p : Place} {v : BitVec w.bits}
    (hi : exec i s = .next (s.placeStore w p v)) :
    completes i s fun t => s.sameButData t ∧ t.flags = s.flags ∧ s.wrote t w p v :=
  completes_moved h (onlyTouched_refl h) hi

/-- What an instruction leaves that reads and then writes `v` to a register. -/
theorem completes_loadedReg (h : s.paged = true) (hu : s.onlyTouched u) {r : Num8} {v : BitVec w.bits}
    (hi : exec i s = .next (u.setReg w r v)) :
    completes i s fun t => s.onlyRegs t ∧ t.regs = s.regs.setRn w r v :=
  completes_mono (completes_moved h hu (p := .reg r) hi) fun _ ⟨hsame, hflags, hregs, hmem⟩ =>
    ⟨⟨hsame, hflags, hmem⟩, hregs⟩

/-- The same by a property of the value written. -/
theorem completes_loadedValue (h : s.paged = true) (hu : s.onlyTouched u) {r : Num8} {v : BitVec w.bits}
    {Q : BitVec w.bits → Prop} (hi : exec i s = .next (u.setReg w r v)) (hQ : Q v) :
    completes i s fun t => ∃ v, s.onlyRegs t ∧ t.regs = s.regs.setRn w r v ∧ Q v :=
  completes_mono (completes_loadedReg h hu hi) fun _ ⟨honly, hregs⟩ => ⟨v, honly, hregs, hQ⟩

/-- What an instruction leaves that writes a register and makes no access to memory. -/
theorem completes_setReg (h : s.paged = true) {r : Num8} {v : BitVec w.bits} (hi : exec i s = .next (s.setReg w r v)) :
    completes i s fun t => s.sameButData t ∧ t.flags = s.flags ∧ t.regs = s.regs.setRn w r v ∧ t.mem = s.mem := by
  obtain ⟨hsame, hflags⟩ := onlyData_leaves (setReg_onlyData h r v)
  exact ⟨_, hi, hsame, hflags, rfl, rfl⟩

/-- The source segment of moffs and XLAT (30_encoding R180). -/
theorem sourceSeg_eq (s : State) : s.sourceSeg = s.segs.get s.dataSeg := by
  unfold State.sourceSeg State.dataSeg
  cases s.pfx.seg <;> rfl

theorem segVal_dataSeg (h : s.paged = true) (w : Width) (off : Word) :
    s.segVal w s.dataSeg off = s.mem.val w (s.sourceSeg.base + off) := by
  rw [segVal_paged (State.paged_io h), sourceSeg_eq]
  rfl

end Moved

/-- Settles O39: every form writes one operand, after the read of the other. -/
theorem movCopiesSource : Obligations.MovCopiesSource := by
  unfold Obligations.MovCopiesSource
  intro f s h
  cases f with
  | rmR w rm r => exact completes_stored h rfl
  | rRm w r rm => exact completes_moved (p := .reg r) h (rmTouch_only h (w.width s.osz) rm) rfl
  | ebIb rm v => exact completes_stored h rfl
  | evIz rm z => exact completes_stored h rfl
  | rIb r v => exact completes_stored (w := .b8) (p := .reg r) h rfl
  | rIz r z => exact completes_stored (w := s.osz.width) (p := .reg r) h rfl
  | accOff w o =>
    simp only [← segVal_dataSeg h]
    exact completes_moved (p := .reg .n0) h (segTouch_only h (w.width s.osz) s.dataSeg (moffsVal o)) rfl
  | offAcc w o =>
    simp only [sourceSeg_eq]
    exact completes_stored (p := .mem s.dataSeg (moffsVal o)) h rfl

/-! ### Conversions and exchanges -/

/-- A register written with what it holds (10_state R34). -/
theorem Bank.setRn_rn (b : Bank) (z : Sz) (i : Num8) : b.setRn z.width i (b.rn z.width i) = b := by
  have hset : b.set i (b.get i) = b := by cases i <;> rfl
  cases z with
  | s16 =>
    have hcell : (b.get i).extractLsb' 16 16 ++ (b.get i).extractLsb' 0 16 = b.get i := by
      apply BitVec.eq_of_getLsbD_eq
      intro k hk
      rw [getLsbD_replaceLow16 _ hk]
      split <;> simp [*]
    simp only [Bank.setRn, Bank.rn, Bank.setR16, Bank.r16, hcell, hset]
  | s32 => exact hset

theorem setReg_rn (s : State) (z : Sz) (i : Num8) : s.setReg z.width i (s.regs.rn z.width i) = s :=
  congrArg (State.setRegs · s) (Bank.setRn_rn _ _ _)

/-- The offset that XLAT reads at (41_data_movement R343). -/
theorem xlatOff_eq (s : State) : s.xlatOff = match s.asz with
    | .s16 => (s.regs.rn .b16 .n3 + (s.regs.rn .b8 .n0).setWidth 16).setWidth 32
    | .s32 => s.regs.rn .b32 .n3 + (s.regs.rn .b8 .n0).setWidth 32 := by
  unfold State.xlatOff
  cases s.asz with
  | s16 =>
    rw [trunc_s16, setWidth_add16, BitVec.setWidth_setWidth_of_le _ (by decide)]
    simp only [Bank.rn, r16_eq, Bank.get]
  | s32 => rfl

section Exchange

variable {s : State}

/-- An exchange of two registers (41_data_movement R341, R342). -/
theorem completes_exchanged {i : Instr} (h : s.paged = true) {w : Width} {q r : Num8}
    (hi : exec i s = .next ((s.setReg w q (s.regs.rn w r)).setReg w r (s.regs.rn w q))) :
    completes i s fun t => s.onlyRegs t ∧
      t.regs = (s.regs.setRn w q (s.regs.rn w r)).setRn w r (s.regs.rn w q) := by
  obtain ⟨hsame, hflags⟩ := onlyData_leaves (setRegs_onlyData h
    ((s.regs.setRn w q (s.regs.rn w r)).setRn w r (s.regs.rn w q)))
  exact ⟨_, hi, ⟨hsame, hflags, Memory.kept_refl _⟩, rfl⟩

/-- An exchange with memory writes the register after the memory (41_data_movement R341). -/
theorem completes_exchangedMem (h : s.paged = true) (w : OpW) (a : MemRef) (r : Num8) :
    let n := w.width s.osz
    completes (.xchg (.rmR w (.mem a) r)) s fun t => s.sameButData t ∧ t.flags = s.flags ∧
      t.regs = s.regs.setRn n r (s.rmVal n (.mem a)) ∧
      s.mem.stored t.mem n ((s.segs.get (s.eaSeg a)).base + s.eaOff a) (s.regs.rn n r) := by
  intro n
  have hu := rmTouch_only h n (.mem a)
  have hpaged := onlyTouched_paged h hu
  have hwrote := placeStore_wrote h hu n (s.place (.mem a)) (s.regs.rn n r)
  have hstore := placeStore_onlyData hpaged (s.place (.mem a)) (s.regs.rn n r)
  obtain ⟨hregs, hmem⟩ := hwrote
  obtain ⟨hsame, hflags⟩ := onlyData_leaves (onlyData_trans (onlyTouched_onlyData hu) (onlyData_trans hstore
    (setReg_onlyData (onlyData_paged hpaged hstore) r (s.rmVal n (.mem a)))))
  have hexec : exec (.xchg (.rmR w (.mem a) r)) s = .next
      (((s.rmTouch n (.mem a)).placeStore n (s.place (.mem a)) ((s.rmTouch n (.mem a)).regs.rn n r)).setReg n r
        (s.rmVal n (.mem a))) := rfl
  rw [rmTouch_regs h] at hexec
  exact ⟨_, hexec, hsame, hflags, congrArg (Bank.setRn · n r _) hregs, hmem⟩

end Exchange

theorem narrowWidth_bits_le (w : OpW) (z : Sz) : (narrowWidth w).bits ≤ z.width.bits := by
  cases w <;> cases z <;> decide

/-- The sign of a number in every bit (41_data_movement R346). -/
theorem toInt_signMask {n : Nat} (hn : 0 < n) (x : BitVec n) :
    (if x.msb then BitVec.allOnes n else 0).toInt = if x.getLsbD (n - 1) then -1 else 0 := by
  rw [← BitVec.msb_eq_getLsbD_last]
  cases x.msb <;> simp [BitVec.toInt_allOnes, hn]

/-- Settles O40: each but XCHG with memory writes registers alone, after its reads. -/
theorem registerMoveResults : Obligations.RegisterMoveResults := by
  unfold Obligations.RegisterMoveResults
  intro w r rm m x s h o src n table
  have hsrc : src = narrowWidth w := by cases w <;> rfl
  rw [hsrc]
  have hnarrow : (narrowWidth w).bits ≤ o.bits := narrowWidth_bits_le w s.osz
  have hread := rmTouch_only h (narrowWidth w) rm
  have hself := onlyTouched_refl h
  refine ⟨completes_loadedValue h hread rfl (BitVec.toNat_setWidth_of_le hnarrow),
    completes_loadedValue h hread rfl (BitVec.toInt_signExtend_of_le hnarrow), ?_, ?_,
    completes_loadedValue (w := .b16) h hself rfl (BitVec.toInt_signExtend_of_le (by decide)),
    completes_loadedValue (w := .b32) h hself rfl (BitVec.toInt_signExtend_of_le (by decide)),
    completes_loadedValue (w := .b16) h hself rfl (toInt_signMask (by decide) (s.regs.r16 .n0)),
    completes_loadedValue (w := .b32) h hself rfl (toInt_signMask (by decide) s.regs.r0), ?_,
    completes_exchanged (q := .n0) h rfl, ⟨s, rfl, rfl⟩, ?_⟩
  · refine completes_mono (completes_setReg h rfl) fun t ⟨hsame, hflags, hregs, hmem⟩ =>
      ⟨_, ⟨hsame, hflags, ?_⟩, hmem, hregs, BitVec.toNat_setWidth ..⟩
    rw [hmem]
    exact Memory.kept_refl _
  · have htable : table = s.xlatOff := (xlatOff_eq s).symm
    rw [htable, ← segVal_dataSeg h]
    exact completes_loadedReg h (segTouch_only h .b8 s.dataSeg s.xlatOff) rfl
  · cases rm with
    | reg q =>
      exact completes_mono (completes_exchanged h rfl) fun _ ⟨⟨hsame, hflags, hmem⟩, hregs⟩ =>
        ⟨hsame, hflags, hregs, hmem⟩
    | mem a => exact completes_exchangedMem h w a r
  · rintro q rfl rfl
    exact ⟨_, rfl, (congrArg (State.setReg _ _ _) (setReg_rn s s.osz .n0)).trans (setReg_rn s s.osz .n0)⟩

/-! ### Byte sets -/

theorem completes_setcc {s : State} {i : Instr} {c : Cond} {rm : RM} (h : s.paged = true)
    (hi : exec i s = .next (s.setcc c rm)) :
    completes i s fun t => ∃ v : Byte, s.sameButData t ∧ t.flags = s.flags ∧ s.wrote t .b8 (s.place rm) v ∧
      (condTable s.flags c → v = 1) ∧ (¬condTable s.flags c → v = 0) := by
  obtain ⟨t, ht, hsame, hflags, hwrote⟩ := completes_stored h hi
  refine ⟨t, ht, _, hsame, hflags, hwrote, fun hc => if_pos ((condHolds_iff _ _).2 hc), fun hc => ?_⟩
  exact if_neg fun hholds => hc ((condHolds_iff _ _).1 hholds)

/-- Settles O49: the sixteen are `State.setcc` of their condition. -/
theorem setccResults : Obligations.SetccResults := by
  unfold Obligations.SetccResults
  intro rm s h
  simp only [List.forall_mem_cons, List.not_mem_nil, false_imp_iff, implies_true, and_true]
  and_intros <;> exact completes_setcc h rfl

/-! ### Stores of system registers -/

section SystemStore

variable {s : State} {i : Instr} {w : Width}

theorem completes_segStore (h : s.paged = true) {g : Seg} {off : Word} {v : BitVec w.bits}
    (hi : exec i s = .next (s.segStore w g off v)) :
    completes i s fun t => s.sameButData t ∧ t.flags = s.flags ∧ t.regs = s.regs ∧
      s.mem.stored t.mem w ((s.segs.get g).base + off) v :=
  completes_stored (p := .mem g off) h hi

/-- What a store of a table register leaves: the limit, then the base (45_system R594, R595). -/
theorem completes_storeTable (h : s.paged = true) {table : Sys → TableReg} {m : MemRef}
    (hi : exec i s = .next (s.storeTable table m)) :
    completes i s fun t => s.sameButData t ∧ t.flags = s.flags ∧ t.regs = s.regs ∧
      ∃ m1, s.mem.stored m1 .b16 ((s.segs.get (s.eaSeg m)).base + s.eaNext m 0) (table s.sys).limit ∧
        m1.stored t.mem .b32 ((s.segs.get (s.eaSeg m)).base + s.eaNext m 2) (table s.sys).base := by
  have hlimit := placeStore_onlyData h (s.eaPlace m 0) (w := .b16) (table s.sys).limit
  generalize hu : s.placeStore .b16 (s.eaPlace m 0) (table s.sys).limit = u at hlimit
  have hpaged := onlyData_paged h hlimit
  obtain ⟨hsame, hflags⟩ := onlyData_leaves
    (onlyData_trans hlimit (placeStore_onlyData hpaged (s.eaPlace m 2) (w := .b32) (table s.sys).base))
  obtain ⟨hregs1, hmem1⟩ := placeStore_wrote h (onlyTouched_refl h) .b16 (s.eaPlace m 0) (table s.sys).limit
  obtain ⟨hregs2, hmem2⟩ := placeStore_wrote hpaged (onlyTouched_refl hpaged) .b32 (s.eaPlace m 2) (table s.sys).base
  rw [hu] at hregs1 hmem1
  rw [onlyData_segs hlimit] at hmem2
  have hsys : u.sys = s.sys := by
    rw [hlimit.1]
    rfl
  have hexec : exec i s = .next (u.placeStore .b32 (s.eaPlace m 2) (table s.sys).base) := by
    rw [hi, State.storeTable, hu, hsys]
  exact ⟨_, hexec, hsame, hflags, hregs2.trans hregs1, u.mem, hmem1, hmem2⟩

end SystemStore

/-- Settles O43: a register takes the operand size, memory 16 bits; a table register is two stores. -/
theorem systemStores : Obligations.SystemStores := by
  unfold Obligations.SystemStores
  intro g rm m s h o out base table
  have hsgdt : completes (.sgdt m) s fun t => table t s.sys.gdtr := completes_storeTable h rfl
  have hsidt : completes (.sidt m) s fun t => table t s.sys.idtr := completes_storeTable h rfl
  cases rm with
  | reg r =>
    exact ⟨completes_setReg h rfl,
      fun hpe => completes_setReg h (congrArg _ (protectedOnly_pass _ hpe)),
      fun hpe => completes_setReg h (congrArg _ (protectedOnly_pass _ hpe)),
      completes_setReg h rfl, hsgdt, hsidt⟩
  | mem a =>
    have hsmsw : s.sys.cr.r0.setWidth 16 = s.sys.cr.r0.extractLsb' 0 16 := BitVec.setWidth_eq_extractLsb' (by decide)
    refine ⟨completes_segStore h rfl,
      fun hpe => completes_segStore h (congrArg _ (protectedOnly_pass _ hpe)),
      fun hpe => completes_segStore h (congrArg _ (protectedOnly_pass _ hpe)), ?_, hsgdt, hsidt⟩
    rw [hsmsw]
    exact completes_segStore h rfl

end Sys2Proof.Machine

/-! PROOFS. The stack instructions (41_data_movement R330 to R337, R339, R340, R349, R350, R353, R354): what one push and
one pop leave of registers and memory, then what a sequence of them leaves. -/

namespace Sys2Proof.Machine

/-! ### One push and one pop -/

section Stack

variable {s u : State} {i : Instr} {w : Width}

theorem push_onlyData (h : s.paged = true) (v : BitVec w.bits) : s.onlyData (s.push w v) := by
  rw [push_paged (State.paged_io h)]
  exact ⟨rfl, Memory.wf_store (State.paged_wf h) _ _ _⟩

/-- A pop touches the top of the stack and releases it (41_data_movement R331). -/
theorem popped_eq (h : s.paged = true) (w : Width) :
    s.popped w = (s.segTouch w .ss s.sp).setRegs (s.released w.bytes) := by
  have hio := State.paged_io h
  rw [popped_paged hio, segTouch_paged hio, withSp_released]

theorem popped_regs (h : s.paged = true) : (s.popped w).regs = s.released w.bytes := by
  rw [popped_eq h]
  rfl

theorem popped_kept (h : s.paged = true) : s.mem.kept (s.popped w).mem := by
  rw [popped_eq h, segTouch_paged (State.paged_io h)]
  exact Memory.kept_touchRead (State.paged_wf h) _ _

theorem popped_onlyData (h : s.paged = true) : s.onlyData (s.popped w) := by
  have htouch := segTouch_only h w .ss s.sp
  rw [popped_eq h]
  exact onlyData_trans (onlyTouched_onlyData htouch) (setRegs_onlyData (onlyTouched_paged h htouch) _)

/-- What an instruction leaves that pushes `v`, without a read before. -/
theorem completes_pushed (h : s.paged = true) {v : BitVec w.bits} (hi : exec i s = .next (s.push w v)) :
    completes i s fun t => s.sameButData t ∧ t.flags = s.flags ∧
      pushed s.segs.ss w v s.regs s.mem t.regs t.mem := by
  obtain ⟨hsame, hflags⟩ := onlyData_leaves (push_onlyData h v)
  exact ⟨_, hi, hsame, hflags, pushed_push h w v⟩

/-- A push after reads. -/
theorem pushed_read (h : s.paged = true) (hu : s.onlyTouched u) (v : BitVec w.bits) :
    ∃ m1, s.mem.kept m1 ∧ pushed s.segs.ss w v s.regs m1 (u.push w v).regs (u.push w v).mem := by
  have hpushed := pushed_push (onlyTouched_paged h hu) w v
  obtain ⟨m, rfl, hkept, -⟩ := hu
  exact ⟨m, hkept, hpushed⟩

/-- What an instruction leaves that pushes `v`, after reads. -/
theorem completes_pushedRead (h : s.paged = true) (hu : s.onlyTouched u) {v : BitVec w.bits}
    (hi : exec i s = .next (u.push w v)) :
    completes i s fun t => s.sameButData t ∧ t.flags = s.flags ∧
      ∃ m1, s.mem.kept m1 ∧ pushed s.segs.ss w v s.regs m1 t.regs t.mem := by
  obtain ⟨hsame, hflags⟩ := onlyData_leaves
    (onlyData_trans (onlyTouched_onlyData hu) (push_onlyData (onlyTouched_paged h hu) v))
  exact ⟨_, hi, hsame, hflags, pushed_read h hu v⟩

theorem popReg_onlyData (h : s.paged = true) (r : Num8) : s.onlyData (s.popReg w r) :=
  have hpop := popped_onlyData h
  onlyData_trans hpop (setReg_onlyData (onlyData_paged h hpop) _ _)

theorem popReg_regs (h : s.paged = true) (r : Num8) :
    (s.popReg w r).regs = (s.released w.bytes).setRn w r (s.stackAt w 0) := by
  rw [State.popReg, State.setReg_regs, popped_regs h, top_stackAt (State.paged_io h)]

theorem popReg_kept (h : s.paged = true) (r : Num8) : s.mem.kept (s.popReg w r).mem := popped_kept h

/-- The released register file differs in the stack pointer alone (41_data_movement R331). -/
theorem set_released (s : State) (k : Nat) : s.regs.set .n4 (s.released k).r4 = s.released k := by
  unfold State.released SegReg.releasedIn
  cases s.segs.ss.size <;> rfl

end Stack

/-- Settles O44: every form is one push, of a value formed before it. -/
theorem pushResults : Obligations.PushResults := by
  unfold Obligations.PushResults
  intro f s h w v
  have hself := onlyTouched_refl h
  refine ⟨?_, completes_pushed h rfl, completes_pushed h rfl⟩
  cases f with
  | seg g => exact completes_pushedRead h hself rfl
  | reg r => exact completes_pushedRead h hself rfl
  | iz z => exact completes_pushedRead h hself rfl
  | ib x => exact completes_pushedRead h hself rfl
  | ev rm => exact completes_pushedRead h (rmTouch_only h w rm) rfl

/-- Settles O45: the operand is written after the release of the stack, at an address formed with it. -/
theorem popResults : Obligations.PopResults := by
  unfold Obligations.PopResults
  intro f s h w s1
  have hpop := popped_onlyData (w := w) h
  have hpaged := onlyData_paged h hpop
  cases f with
  | reg r =>
    obtain ⟨hsame, hflags⟩ := onlyData_leaves (popReg_onlyData (w := w) h r)
    exact ⟨_, rfl, hsame, hflags, popReg_regs h r, popReg_kept h r⟩
  | ev rm =>
    have hplace : s.popPlace (s.popped w) rm = s1.place rm := by
      rw [State.popPlace, popped_regs h, set_released]
      rfl
    have hs1 : { s1 with mem := (s.popped w).mem } = s.popped w := by
      rw [popped_eq h, segTouch_paged (State.paged_io h)]
      rfl
    have hwrote := placeStore_wrote hpaged (onlyTouched_refl hpaged) w (s1.place rm) (s.stackAt w 0)
    obtain ⟨hsame, hflags⟩ := onlyData_leaves
      (onlyData_trans hpop (placeStore_onlyData hpaged (s1.place rm) (s.stackAt w 0)))
    refine ⟨(s.popped w).placeStore w (s1.place rm) (s.stackAt w 0), ?_, hsame, hflags, (s.popped w).mem,
      popped_kept h, ?_⟩
    · rw [← hplace, ← top_stackAt (State.paged_io h)]
      rfl
    · rw [hs1]
      exact hwrote

/-! ### The flags -/

/-- The mask of `WriteFlags`: whether IOPL and whether IF are kept (41_data_movement R352). -/
def flagMask (keepIopl keepIfl : Bool) : Word :=
  0x00007FD5 &&& (if keepIopl = true then ~~~0x3000 else 0xFFFFFFFF) &&&
    (if keepIfl = true then ~~~0x0200 else 0xFFFFFFFF)

theorem flagsWritten_eq (s : State) (v : Word) :
    let mask := flagMask (s.pe && decide (s.cpl ≠ 0)) (s.pe && decide (s.flags.iopl < s.cpl))
    s.flagsWritten v = (s.flags.toWord &&& ~~~mask) ||| (v &&& mask) := by
  simp [State.flagsWritten, flagMask, BitVec.lt_def]

theorem getLsbD_flagMask (keepIopl keepIfl : Bool) {k : Nat} (hk : k < 32) :
    (flagMask keepIopl keepIfl).getLsbD k =
      match k with
      | 9 => !keepIfl
      | 12 | 13 => !keepIopl
      | _ => (0x00007FD5#32).getLsbD k := by
  cases keepIopl <;> cases keepIfl <;> interval_cases k <;> rfl

/-- `WriteFlags` replaces the bits of its mask (41_data_movement R352, 10_state R41). -/
theorem toWord_flagsFrom (s : State) (v : Word) : (s.flagsFrom v).toWord = s.flagsWritten v := by
  rw [flagsWritten_eq]
  unfold State.flagsFrom Eflags.write
  generalize (s.pe && decide (s.cpl ≠ 0)) = keepIopl
  generalize (s.pe && decide (s.flags.iopl < s.cpl)) = keepIfl
  apply BitVec.eq_of_getLsbD_eq
  intro k hk
  rw [BitVec.getLsbD_or, BitVec.getLsbD_and, BitVec.getLsbD_and, BitVec.getLsbD_not, getLsbD_flagMask _ _ hk,
    Eflags.getLsbD_toWord, Eflags.getLsbD_toWord]
  interval_cases k <;> simp
  · cases keepIfl <;> simp
  · cases keepIopl <;> simp
  · cases keepIopl <;> simp

/-- What an instruction leaves that pops the flags. -/
theorem completes_popFlags {s : State} {i : Instr} {w : Width} (h : s.paged = true)
    (hi : exec i s = .next (s.popFlags w)) :
    completes i s fun t => s.sameButData t ∧ s.mem.kept t.mem ∧ t.regs = s.released w.bytes ∧
      t.flags.toWord = s.flagsWritten ((s.stackAt w 0).setWidth 32) := by
  have hpop := popped_onlyData (w := w) h
  have hfrom : ∀ v, (s.popped w).flagsFrom v = s.flagsFrom v := by
    rw [hpop.1]
    exact fun _ => rfl
  have hflags : (s.popFlags w).flags = s.flagsFrom ((s.stackAt w 0).setWidth 32) := by
    rw [State.popFlags, State.setFlags_flags, hfrom, top_stackAt (State.paged_io h)]
  exact ⟨_, hi, (onlyData_leaves hpop).1, popped_kept h, popped_regs h, hflags ▸ toWord_flagsFrom s _⟩

/-- Settles O46: EFLAGS are written from the popped image through its mask. -/
theorem popFlagsResults : Obligations.PopFlagsResults := by
  unfold Obligations.PopFlagsResults
  intro s h
  refine ⟨completes_popFlags (w := .b16) h rfl, ?_⟩
  have hpopfd := completes_popFlags (w := .b32) (i := .popfd) h rfl
  rwa [BitVec.setWidth_eq] at hpopfd

/-! ### Registers beside the one written (10_state R31, R32, R34) -/

section Registers

variable {b b' : Bank} {i j : Num8}

theorem Bank.get_setRn_of_ne (z : Sz) (hj : j ≠ i) (v : BitVec z.width.bits) :
    (b.setRn z.width i v).get j = b.get j := by
  cases z <;> simp [Bank.setRn, Bank.setR16, Bank.get_set, hj]

theorem Bank.get_setRn_congr (z : Sz) (h : b'.get i = b.get i) (v : BitVec z.width.bits) :
    (b'.setRn z.width i v).get i = (b.setRn z.width i v).get i := by
  cases z <;> simp only [Bank.setRn, Bank.setR16, Bank.get_set, if_true, h]

theorem Bank.rn_congr (z : Sz) (h : b'.get i = b.get i) : b'.rn z.width i = b.rn z.width i := by
  cases z <;> simp only [Bank.rn, Bank.r16, h]

/-- The half of a register that a 16-bit write keeps (10_state R32). -/
def upperHalf (x : Word) : Nat := x.toNat / 65536

theorem Bank.upperHalf_setR16 (v : BitVec 16) : upperHalf ((b.setR16 i v).get j) = upperHalf (b.get j) := by
  rw [Bank.setR16, Bank.get_set]
  split
  · subst j
    have hlt := (b.get i).isLt
    have hv := v.isLt
    rw [upperHalf, upperHalf, toNat_append_add, BitVec.extractLsb'_toNat, Nat.shiftRight_eq_div_pow]
    omega
  · rfl

theorem Bank.upperHalf_setRn {w : Width} (hw : w = .b16) (v : BitVec w.bits) :
    upperHalf ((b.setRn w i v).get j) = upperHalf (b.get j) := by
  subst hw
  exact Bank.upperHalf_setR16 v

theorem Bank.withSp_eq (z : Sz) (v : Word) : b.withSp z v = b.setRn z.width .n4 (v.setWidth z.width.bits) := by
  cases z
  · rfl
  · simp [Bank.withSp, Bank.setRn]

theorem Bank.get_withSp_of_ne (z : Sz) (hj : j ≠ .n4) (v : Word) : (b.withSp z v).get j = b.get j := by
  rw [Bank.withSp_eq, Bank.get_setRn_of_ne z hj]

end Registers

/-! ### PUSHA -/

section PushList

variable {s : State} {w : Width}

/-- Push values one after the other. -/
def pushList (w : Width) : List (BitVec w.bits) → State → State
  | [], s => s
  | v :: vs, s => pushList w vs (s.push w v)

theorem pushList_onlyData (vs : List (BitVec w.bits)) (h : s.paged = true) : s.onlyData (pushList w vs s) := by
  induction vs generalizing s with
  | nil => exact onlyData_refl h
  | cons v vs ih =>
    have hpush := push_onlyData h v
    exact onlyData_trans hpush (ih (onlyData_paged h hpush))

theorem pushSeq_pushList (vs : List (BitVec w.bits)) (h : s.paged = true) :
    pushSeq s.segs.ss w vs s.regs s.mem (pushList w vs s).regs (pushList w vs s).mem := by
  induction vs generalizing s with
  | nil => exact ⟨rfl, rfl⟩
  | cons v vs ih =>
    have hpush := push_onlyData h v
    have hrest := ih (onlyData_paged h hpush)
    rw [onlyData_segs hpush] at hrest
    exact pushSeq_push h rfl hrest

theorem push_pushList (vs : List (BitVec w.bits)) (v : BitVec w.bits) :
    (pushList w vs s).push w v = pushList w (vs ++ [v]) s := by
  induction vs generalizing s with
  | nil => rfl
  | cons x vs ih => exact ih

/-- A push changes no register but the stack pointer (41_data_movement R330). -/
theorem get_push_of_ne (h : s.paged = true) (v : BitVec w.bits) {r : Num8} (hr : r ≠ .n4) :
    (s.push w v).regs.get r = s.regs.get r := by
  rw [push_paged (State.paged_io h)]
  exact Bank.get_withSp_of_ne _ hr _

theorem get_pushList_of_ne (vs : List (BitVec w.bits)) (h : s.paged = true) {r : Num8} (hr : r ≠ .n4) :
    (pushList w vs s).regs.get r = s.regs.get r := by
  induction vs generalizing s with
  | nil => rfl
  | cons v vs ih => exact (ih (onlyData_paged h (push_onlyData h v))).trans (get_push_of_ne h v hr)

theorem pushReg_pushList (z : Sz) (vs : List (BitVec z.width.bits)) (h : s.paged = true) {r : Num8} (hr : r ≠ .n4) :
    (pushList z.width vs s).pushReg z.width r = pushList z.width (vs ++ [s.regs.rn z.width r]) s := by
  rw [State.pushReg, Bank.rn_congr z (get_pushList_of_ne vs h hr), push_pushList]

/-- PUSHA is eight pushes of the registers as they were before it (41_data_movement R339). -/
theorem pushAll_eq (h : s.paged = true) (z : Sz) :
    s.pushAll z.width = pushList z.width
      [s.regs.rn z.width .n0, s.regs.rn z.width .n1, s.regs.rn z.width .n2, s.regs.rn z.width .n3,
        s.regs.rn z.width .n4, s.regs.rn z.width .n5, s.regs.rn z.width .n6, s.regs.rn z.width .n7] s := by
  have hfirst : s.pushReg z.width .n0 = pushList z.width [s.regs.rn z.width .n0] s := rfl
  simp (disch := decide) only [State.pushAll, hfirst, pushReg_pushList z _ h, push_pushList, List.cons_append,
    List.nil_append]

theorem completes_pushAll {i : Instr} (h : s.paged = true) (z : Sz) (hi : exec i s = .next (s.pushAll z.width)) :
    completes i s fun t => s.sameButData t ∧ t.flags = s.flags ∧ pushSeq s.segs.ss z.width
      [s.regs.rn z.width .n0, s.regs.rn z.width .n1, s.regs.rn z.width .n2, s.regs.rn z.width .n3,
        s.regs.rn z.width .n4, s.regs.rn z.width .n5, s.regs.rn z.width .n6, s.regs.rn z.width .n7]
      s.regs s.mem t.regs t.mem := by
  rw [pushAll_eq h] at hi
  obtain ⟨hsame, hflags⟩ := onlyData_leaves (pushList_onlyData _ h)
  exact ⟨_, hi, hsame, hflags, pushSeq_pushList _ h⟩

end PushList

/-! ### POPA -/

section PopAll

variable {s t u : State} {k : Nat}

theorem above_congr (hr4 : t.regs.r4 = u.regs.r4) (hss : t.segs.ss = u.segs.ss) (k : Nat) : t.above k = u.above k := by
  unfold State.above
  rw [hss]
  cases u.segs.ss.size <;> simp only [Bank.rn, Bank.r16, Bank.get, hr4]

theorem released_r4_congr (hr4 : t.regs.r4 = u.regs.r4) (hss : t.segs.ss = u.segs.ss) (k : Nat) :
    (t.released k).r4 = (u.released k).r4 := by
  unfold State.released SegReg.releasedIn
  rw [hss]
  cases u.segs.ss.size <;> simp only [Bank.rn, Bank.r16, Bank.get, Bank.setRn, Bank.setR16, Bank.set, hr4]

/-- What lies above a released stack pointer (41_data_movement R331). -/
theorem above_released (s : State) (j k : Nat) :
    ({ s with regs := s.released j } : State).above k = s.above (j + k) := by
  unfold State.above State.released SegReg.releasedIn
  cases s.segs.ss.size <;> simp only [Bank.rn_setRn, BitVec.add_assoc, BitVec.ofNat_add]

theorem released_zero (s : State) : s.released 0 = s.regs := by
  unfold State.released SegReg.releasedIn
  cases s.segs.ss.size <;> simp only [BitVec.add_zero]
  · exact Bank.setRn_rn s.regs .s16 .n4
  · exact Bank.setRn_rn s.regs .s32 .n4

theorem get_released_of_ne (s : State) (k : Nat) {r : Num8} (hr : r ≠ .n4) : (s.released k).get r = s.regs.get r := by
  unfold State.released SegReg.releasedIn
  cases s.segs.ss.size
  · exact Bank.get_setRn_of_ne .s16 hr _
  · exact Bank.get_setRn_of_ne .s32 hr _

/-- `t` is `s` after `k` pops of width `z`, with the registers of `l` written, each with the stack entry of its
number. -/
structure State.popsInto (s : State) (z : Sz) (k : Nat) (l : List (Num8 × Nat)) (t : State) : Prop where
  data : s.onlyData t
  kept : s.mem.kept t.mem
  sp : t.regs.r4 = (s.released (k * z.width.bytes)).r4
  entries : ∀ c ∈ l, t.regs.rn z.width c.1 = s.stackAt z.width (c.2 * z.width.bytes)
  high : z.width = .b16 → ∀ r, r ≠ .n4 → upperHalf (t.regs.get r) = upperHalf (s.regs.get r)

namespace State.popsInto

variable {z : Sz} {l : List (Num8 × Nat)}

theorem refl (h : s.paged = true) (z : Sz) : s.popsInto z 0 [] s where
  data := onlyData_refl h
  kept := Memory.kept_refl _
  sp := by rw [Nat.zero_mul, released_zero]
  entries := by simp
  high := fun _ _ _ => rfl

theorem stackAt_zero (ht : s.popsInto z k l t) : t.stackAt z.width 0 = s.stackAt z.width (k * z.width.bytes) := by
  have hss : t.segs.ss = s.segs.ss := congrArg Segs.ss (onlyData_segs ht.data)
  have habove := above_congr (u := { s with regs := s.released (k * z.width.bytes) }) ht.sp hss 0
  rw [above_released, Nat.add_zero] at habove
  rw [State.stackAt, habove, hss, Memory.val_of_kept ht.kept]
  rfl

/-- A pop whose value is discarded. -/
theorem popped (h : s.paged = true) (ht : s.popsInto z k l t) (hl : ∀ c ∈ l, c.1 ≠ .n4) :
    s.popsInto z (k + 1) l (t.popped z.width) := by
  have hpaged := onlyData_paged h ht.data
  have hss : t.segs.ss = s.segs.ss := congrArg Segs.ss (onlyData_segs ht.data)
  have hregs := popped_regs (w := z.width) hpaged
  refine ⟨onlyData_trans ht.data (popped_onlyData hpaged), Memory.kept_trans ht.kept (popped_kept hpaged), ?_,
    fun c hc => ?_, fun hz r hr => ?_⟩ <;> rw [hregs]
  · rw [released_r4_congr (u := { s with regs := s.released (k * z.width.bytes) }) ht.sp hss, released_released,
      Nat.succ_mul]
  · rw [Bank.rn_congr z (get_released_of_ne t _ (hl c hc)), ht.entries c hc]
  · rw [get_released_of_ne t _ hr, ht.high hz r hr]

/-- A pop into another register than those before it. -/
theorem popReg (h : s.paged = true) (ht : s.popsInto z k l t) {r : Num8} (hr : r ≠ .n4)
    (hl : ∀ c ∈ l, c.1 ≠ .n4 ∧ c.1 ≠ r) : s.popsInto z (k + 1) (l ++ [(r, k)]) (t.popReg z.width r) := by
  have hpaged := onlyData_paged h ht.data
  have hpop := ht.popped h fun c hc => (hl c hc).1
  have hdata := onlyData_trans ht.data (popReg_onlyData (w := z.width) hpaged r)
  refine ⟨hdata, hpop.kept, (Bank.get_setRn_of_ne z hr.symm _).trans hpop.sp, ?_,
    fun hz j hj => (Bank.upperHalf_setRn hz _).trans (hpop.high hz j hj)⟩
  simp only [List.forall_mem_append, List.forall_mem_singleton]
  refine ⟨fun c hc => (Bank.rn_congr z (Bank.get_setRn_of_ne z (hl c hc).2 _)).trans (hpop.entries c hc), ?_⟩
  rw [popReg_regs hpaged, Bank.rn_setRn, ht.stackAt_zero]

end State.popsInto

/-- POPA is seven pops into registers and one whose value is discarded (41_data_movement R340). -/
theorem popsInto_popAll (h : s.paged = true) (z : Sz) :
    s.popsInto z 8 [(.n7, 0), (.n6, 1), (.n5, 2), (.n3, 4), (.n2, 5), (.n1, 6), (.n0, 7)] (s.popAll z.width) :=
  have h7 := (State.popsInto.refl h z).popReg h (r := .n7) (by decide) (by decide)
  have h6 := h7.popReg h (r := .n6) (by decide) (by decide)
  have h5 := h6.popReg h (r := .n5) (by decide) (by decide)
  have h4 := h5.popped h (by decide)
  have h3 := h4.popReg h (r := .n3) (by decide) (by decide)
  have h2 := h3.popReg h (r := .n2) (by decide) (by decide)
  have h1 := h2.popReg h (r := .n1) (by decide) (by decide)
  h1.popReg h (r := .n0) (by decide) (by decide)

theorem completes_popAll {i : Instr} (h : s.paged = true) (z : Sz) (hi : exec i s = .next (s.popAll z.width)) :
    completes i s fun t => s.onlyRegs t ∧
      (∀ c ∈ [(Num8.n7, 0), (.n6, 1), (.n5, 2), (.n3, 4), (.n2, 5), (.n1, 6), (.n0, 7)],
        t.regs.rn z.width c.1 = s.stackAt z.width (c.2 * z.width.bytes) ∧
        (z.width = .b16 → upperHalf (t.regs.get c.1) = upperHalf (s.regs.get c.1))) ∧
      t.regs.r4 = (s.released (8 * z.width.bytes)).r4 := by
  obtain ⟨hdata, hkept, hsp, hentries, hhigh⟩ := popsInto_popAll h z
  obtain ⟨hsame, hflags⟩ := onlyData_leaves hdata
  have hne : ∀ c ∈ [(Num8.n7, 0), (.n6, 1), (.n5, 2), (.n3, 4), (.n2, 5), (.n1, 6), (.n0, 7)], c.1 ≠ .n4 := by decide
  exact ⟨_, hi, ⟨hsame, hflags, hkept⟩, fun c hc => ⟨hentries c hc, fun hz => hhigh hz c.1 (hne c hc)⟩, hsp⟩

end PopAll

/-- Settles O47: PUSHA is a sequence of pushes of the registers before it, POPA of pops into other registers each. -/
theorem pushAllPopAll : Obligations.PushAllPopAll := by
  unfold Obligations.PushAllPopAll
  intro s h all popped
  exact ⟨completes_pushAll h .s16 rfl, completes_pushAll h .s32 rfl, completes_popAll h .s16 rfl,
    completes_popAll h .s32 rfl⟩

/-! ### Offsets below the stack pointer -/

theorem trunc_sub_trunc (z : Sz) (x y : Word) : z.trunc (z.trunc x - y) = z.trunc (x - y) := by
  cases z with
  | s16 => simp only [trunc_s16, setWidth_sub16, setWidth16_low]
  | s32 => rfl

theorem trunc_trunc (z : Sz) (x : Word) : z.trunc (z.trunc x) = z.trunc x := by
  simpa using trunc_sub_trunc z x 0

/-- A register of a size less a number, as an offset (41_data_movement R353). -/
theorem trunc_get_sub (z : Sz) (b : Bank) (i : Num8) (k : Nat) :
    z.trunc (b.get i - BitVec.ofNat 32 k) = (b.rn z.width i - BitVec.ofNat z.width.bits k).setWidth 32 := by
  cases z with
  | s16 => rw [trunc_s16, setWidth_sub16, setWidth_ofNat16, ← r16_eq]; rfl
  | s32 => simp [Bank.rn]

theorem setWidth_trunc_get (z : Sz) (b : Bank) (i : Num8) :
    (z.trunc (b.get i)).setWidth z.width.bits = b.rn z.width i := by
  cases z with
  | s16 => rw [trunc_s16, setWidth16_low, ← r16_eq]; rfl
  | s32 => exact BitVec.setWidth_eq _

theorem Bank.trunc_withSp (b : Bank) (z : Sz) (v : Word) : z.trunc (b.withSp z v).r4 = z.trunc v := by
  cases z with
  | s16 =>
    have hlow := Bank.rn_setRn b .b16 .n4 (v.setWidth 16)
    simp only [Bank.rn, r16_eq, Bank.get] at hlow
    rw [trunc_s16, trunc_s16]
    exact congrArg (BitVec.setWidth 32) hlow
  | s32 => rfl

section Below

variable {s t : State} {w : Width}

/-- The stack offset `k` bytes below the stack pointer, by the stack size. -/
def State.below (s : State) (k : Nat) : Word := s.ssz.trunc (s.regs.r4 - BitVec.ofNat 32 k)

theorem below_congr (hr4 : t.regs.r4 = s.regs.r4) (hsegs : t.segs = s.segs) (k : Nat) : t.below k = s.below k := by
  unfold State.below State.ssz
  rw [hr4, hsegs]

theorem pushOff_eq (s : State) (w : Width) : s.pushOff w = s.below w.bytes := trunc_sub_trunc _ _ _

theorem below_of_trunc {x : Word} (hsegs : t.segs = s.segs) (hsp : s.ssz.trunc t.regs.r4 = s.ssz.trunc x) (k : Nat) :
    t.below k = s.ssz.trunc (x - BitVec.ofNat 32 k) := by
  have hssz : t.ssz = s.ssz := congrArg (fun b : Segs => b.ss.size) hsegs
  rw [State.below, hssz, ← trunc_sub_trunc, hsp, trunc_sub_trunc]

theorem push_regs (h : s.paged = true) (v : BitVec w.bits) : (s.push w v).regs = s.withSp (s.below w.bytes) := by
  rw [push_paged (State.paged_io h), pushOff_eq]
  rfl

theorem below_push (h : s.paged = true) (v : BitVec w.bits) (k : Nat) :
    (s.push w v).below k = s.below (w.bytes + k) := by
  have hsp : s.ssz.trunc (s.push w v).regs.r4 = s.ssz.trunc (s.regs.r4 - BitVec.ofNat 32 w.bytes) := by
    rw [push_regs h, State.withSp, Bank.trunc_withSp, State.below, trunc_trunc]
  rw [below_of_trunc (onlyData_segs (push_onlyData h v)) hsp, State.below, BitVec.sub_sub, BitVec.ofNat_add]

theorem push_stored (h : s.paged = true) (v : BitVec w.bits) :
    s.mem.stored (s.push w v).mem w (s.segs.ss.base + s.below w.bytes) v := by
  rw [push_paged (State.paged_io h), pushOff_eq]
  exact Memory.stored_store (State.paged_wf h) w _ v

end Below

/-! ### ENTER and LEAVE -/

section Enter

variable {s t : State} {w : Width} {n : Nat}

/-- `t` is `s` after `n` pushes of width `w`; of the registers, EBP may have been written too. -/
structure State.pushesDown (s : State) (w : Width) (n : Nat) (t : State) : Prop where
  data : s.onlyData t
  sp : ∀ k, t.below k = s.below (n * w.bytes + k)
  high : s.ssz = .s16 → upperHalf t.regs.r4 = upperHalf s.regs.r4
  others : ∀ r, r ≠ .n4 → r ≠ .n5 → t.regs.get r = s.regs.get r
  mem : s.mem.keepsBut t.mem
    ((List.range n).flatMap fun k => span w.bytes (s.segs.ss.base + s.below ((k + 1) * w.bytes)))

namespace State.pushesDown

theorem refl (h : s.paged = true) (w : Width) : s.pushesDown w 0 s where
  data := onlyData_refl h
  sp := fun k => by rw [Nat.zero_mul, Nat.zero_add]
  high := fun _ => rfl
  others := fun _ _ _ => rfl
  mem := Memory.keepsBut_refl _ _

theorem push (h : s.paged = true) (ht : s.pushesDown w n t) (v : BitVec w.bits) :
    s.pushesDown w (n + 1) (t.push w v) := by
  have hpaged := onlyData_paged h ht.data
  have hsegs := onlyData_segs ht.data
  refine ⟨onlyData_trans ht.data (push_onlyData hpaged v), fun k => ?_, fun hz => ?_, fun r h4 h5 => ?_, ?_⟩
  · rw [below_push hpaged, ht.sp, Nat.succ_mul, Nat.add_assoc]
  · have hz' : t.ssz = .s16 := (congrArg (fun b : Segs => b.ss.size) hsegs).trans hz
    rw [push_regs hpaged, State.withSp, hz', ← ht.high hz]
    exact Bank.upperHalf_setR16 (j := .n4) _
  · rw [get_push_of_ne hpaged v h4, ht.others r h4 h5]
  · obtain ⟨hmem, -⟩ := push_stored hpaged v
    rw [hsegs, ht.sp, ← Nat.succ_mul] at hmem
    rw [List.range_succ, List.flatMap_append, List.flatMap_singleton]
    exact Memory.keepsBut_trans ht.mem hmem

theorem touched {u : State} (ht : s.pushesDown w n t) (hu : t.onlyTouched u) : s.pushesDown w n u := by
  obtain ⟨hdata, hsp, hhigh, hothers, hmem⟩ := ht
  refine ⟨onlyData_trans hdata (onlyTouched_onlyData hu), ?_, ?_, ?_, ?_⟩ <;> obtain ⟨m, rfl, hkept, -⟩ := hu
  · exact hsp
  · exact hhigh
  · exact hothers
  · have hall := Memory.keepsBut_trans hmem hkept
    rwa [List.append_nil] at hall

/-- A write of EBP or BP in between. -/
theorem setBp (h : s.paged = true) (ht : s.pushesDown w n t) (z : Sz) (v : BitVec z.width.bits) :
    s.pushesDown w n (t.setReg z.width .n5 v) :=
  have hr4 : (t.setReg z.width .n5 v).regs.r4 = t.regs.r4 :=
    Bank.get_setRn_of_ne (i := .n5) (j := .n4) z (by decide) v
  { data := onlyData_trans ht.data (setReg_onlyData (onlyData_paged h ht.data) _ _)
    sp := fun k => (below_congr hr4 rfl k).trans (ht.sp k)
    high := fun hz => (congrArg upperHalf hr4).trans (ht.high hz)
    others := fun r h4 h5 => (Bank.get_setRn_of_ne z h5 v).trans (ht.others r h4 h5)
    mem := ht.mem }

end State.pushesDown

theorem withBp_eq (s : State) (v : Word) :
    s.withBp v = s.regs.setRn s.ssz.width .n5 (v.setWidth s.ssz.width.bits) := by
  unfold State.withBp
  cases s.ssz
  · rfl
  · simp [Bank.setRn]

/-- The offset of the frame pointer that ENTER copies next (41_data_movement R353). -/
def State.bpOff (s : State) (w : Width) : Word := s.ssz.trunc (s.regs.r5 - BitVec.ofNat 32 w.bytes)

theorem bpOff_eq (s : State) (w : Width) :
    s.bpOff w = (s.regs.rn s.ssz.width .n5 - BitVec.ofNat s.ssz.width.bits w.bytes).setWidth 32 :=
  trunc_get_sub s.ssz s.regs .n5 w.bytes

theorem withBp_bpOff (s : State) (w : Width) :
    s.withBp (s.bpOff w) =
      s.regs.setRn s.ssz.width .n5 (s.regs.rn s.ssz.width .n5 - BitVec.ofNat s.ssz.width.bits w.bytes) := by
  rw [withBp_eq, bpOff_eq, BitVec.setWidth_setWidth_of_le _ (by cases s.ssz <;> decide), BitVec.setWidth_eq]

/-- One turn of the copying of frame pointers (41_data_movement R353). -/
def State.copyFrame (w : Width) (s : State) : State :=
  let s1 := s.setReg s.ssz.width .n5 (s.regs.rn s.ssz.width .n5 - BitVec.ofNat s.ssz.width.bits w.bytes)
  (s1.segTouch w .ss (s.bpOff w)).push w (s1.segVal w .ss (s.bpOff w))

theorem enterLevels_succ (w : Width) (n : Nat) (s : State) :
    enterLevels w (n + 1) s = enterLevels w n (s.copyFrame w) := by
  rw [enterLevels]
  show enterLevels w n (((s.setRegs (s.withBp (s.bpOff w))).segTouch w .ss (s.bpOff w)).push w
    ((s.setRegs (s.withBp (s.bpOff w))).segVal w .ss (s.bpOff w))) = _
  rw [withBp_bpOff]
  rfl

theorem State.pushesDown.copyFrame (h : s.paged = true) (ht : s.pushesDown w n t) :
    s.pushesDown w (n + 1) (t.copyFrame w) := by
  have hbp := ht.setBp h t.ssz (t.regs.rn t.ssz.width .n5 - BitVec.ofNat t.ssz.width.bits w.bytes)
  exact (hbp.touched (segTouch_only (onlyData_paged h hbp.data) w .ss (t.bpOff w))).push h _

theorem State.pushesDown.enterLevels (h : s.paged = true) (ht : s.pushesDown w n t) (j : Nat) :
    s.pushesDown w (n + j) (enterLevels w j t) := by
  induction j generalizing n t with
  | zero => exact ht
  | succ j ih =>
    rw [enterLevels_succ, ← Nat.add_assoc, Nat.add_right_comm]
    exact ih (ht.copyFrame h)

theorem copyFrame_pushed (h : s.paged = true) :
    let z := s.segs.ss.size.width
    let bp := s.regs.rn z .n5 - BitVec.ofNat z.bits w.bytes
    ∃ m1, s.mem.kept m1 ∧ pushed s.segs.ss w (s.mem.val w (s.segs.ss.base + bp.setWidth 32))
      (s.regs.setRn z .n5 bp) m1 (s.copyFrame w).regs (s.copyFrame w).mem := by
  intro z bp
  have hpaged := onlyData_paged h (setReg_onlyData (w := z) h .n5 bp)
  have hval : (s.setReg z .n5 bp).segVal w .ss (s.bpOff w) = s.mem.val w (s.segs.ss.base + bp.setWidth 32) := by
    rw [segVal_paged (State.paged_io hpaged), bpOff_eq]
    rfl
  rw [← hval]
  exact pushed_read hpaged (segTouch_only hpaged w .ss (s.bpOff w)) _

/-- The frame pointers that ENTER copies (41_data_movement R353). -/
theorem frameCopies_enterLevels (n : Nat) (h : s.paged = true) :
    frameCopies s.segs.ss w n s.regs s.mem (enterLevels w n s).regs (enterLevels w n s).mem := by
  induction n generalizing s with
  | zero => exact ⟨rfl, rfl⟩
  | succ n ih =>
    have hcopy := ((State.pushesDown.refl h w).copyFrame h).data
    have hrest := ih (onlyData_paged h hcopy)
    rw [onlyData_segs hcopy] at hrest
    obtain ⟨m1, hkept, hpushed⟩ := copyFrame_pushed (w := w) h
    rw [enterLevels_succ]
    exact ⟨m1, _, _, hkept, hpushed, hrest⟩

/-- The pushes of ENTER: the frame pointer; for a level of 1 or more the copies and the new frame pointer. -/
def State.enterPushes (w : Width) (lvl : Nat) (frame : BitVec w.bits) (s : State) : State :=
  let s1 := s.push w (s.regs.rn w .n5)
  if lvl = 0 then s1 else (enterLevels w (lvl - 1) s1).push w frame

theorem State.pushesDown.enterPushes (h : s.paged = true) (lvl : Nat) (frame : BitVec w.bits) :
    s.pushesDown w (if lvl = 0 then 1 else lvl + 1) (s.enterPushes w lvl frame) := by
  have hfirst := (State.pushesDown.refl h w).push h (s.regs.rn w .n5)
  unfold State.enterPushes
  split
  · exact hfirst
  · have hall := (hfirst.enterLevels h (lvl - 1)).push h frame
    rwa [show 0 + 1 + (lvl - 1) + 1 = lvl + 1 by omega] at hall

/-- The stack pointer after the first push is the new frame pointer (41_data_movement R353). -/
theorem sp_push (h : s.paged = true) (v : BitVec w.bits) : (s.push w v).sp = s.below w.bytes := by
  have hbelow := below_push h v 0
  rwa [State.below, BitVec.sub_zero] at hbelow

theorem execEnter_eq (h : s.paged = true) (size : BitVec 16) (level : Byte) :
    exec (.enter size level) s =
      let w := s.osz.width
      let frame := (s.below w.bytes).setWidth w.bits
      .next (((s.enterPushes w (level.toNat % 32) frame).setReg w .n5 frame).adjustSp (-(size.setWidth 32))) := by
  dsimp only
  rw [← sp_push h (s.regs.rn s.osz.width .n5)]
  rfl

/-- The local bytes are taken off the stack pointer (41_data_movement R353). -/
theorem trunc_adjustSp_neg (s : State) (size : BitVec 16) :
    s.ssz.trunc (s.adjustSp (-(size.setWidth 32))).regs.r4 = s.below size.toNat := by
  have hsize : size.setWidth 32 = BitVec.ofNat 32 size.toNat := by simp
  rw [State.adjustSp_regs, State.withSp, Bank.trunc_withSp, hsize, ← BitVec.sub_eq_add_neg]
  exact trunc_sub_trunc _ _ _

theorem get_adjustSp_of_ne (s : State) (k : Word) {r : Num8} (hr : r ≠ .n4) :
    (s.adjustSp k).regs.get r = s.regs.get r := Bank.get_withSp_of_ne _ hr _

/-- What is left after the pushes and the local bytes. -/
theorem State.pushesDown.locals (h : s.paged = true) (ht : s.pushesDown w n t) (size : BitVec 16) :
    let u := t.adjustSp (-(size.setWidth 32))
    (s.sameButData u ∧ u.flags = s.flags) ∧
      s.ssz.trunc u.regs.r4 = s.below (n * w.bytes + size.toNat) ∧
      (s.ssz = .s16 → upperHalf u.regs.r4 = upperHalf s.regs.r4) ∧
      ∀ r, r ≠ .n4 → r ≠ .n5 → u.regs.get r = s.regs.get r := by
  have hssz : t.ssz = s.ssz := congrArg (fun b : Segs => b.ss.size) (onlyData_segs ht.data)
  refine ⟨onlyData_leaves (onlyData_trans ht.data (setRegs_onlyData (onlyData_paged h ht.data) _)), ?_, fun hz => ?_,
    fun r h4 h5 => (get_adjustSp_of_ne t _ h4).trans (ht.others r h4 h5)⟩
  · rw [← hssz, trunc_adjustSp_neg, ht.sp]
  · rw [State.adjustSp_regs, State.withSp, hssz, hz, ← ht.high hz]
    exact Bank.upperHalf_setR16 (j := .n4) _

/-- The pushes of a level of 1 or more: the last one changes the stack pointer alone. -/
theorem enterPushes_copies (h : s.paged = true) {lvl : Nat} (hlvl : lvl ≠ 0) (frame : BitVec w.bits) :
    ∃ b1 m1 b2 m2, pushed s.segs.ss w (s.regs.rn w .n5) s.regs s.mem b1 m1 ∧
      frameCopies s.segs.ss w (lvl - 1) b1 m1 b2 m2 ∧
      pushed s.segs.ss w frame b2 m2 (s.enterPushes w lvl frame).regs (s.enterPushes w lvl frame).mem ∧
      (s.enterPushes w lvl frame).regs.get .n5 = b2.get .n5 := by
  have hfirst := push_onlyData h (s.regs.rn w .n5)
  have hpaged1 := onlyData_paged h hfirst
  have hcopies := frameCopies_enterLevels (w := w) (lvl - 1) hpaged1
  have hlevels := ((State.pushesDown.refl hpaged1 w).enterLevels hpaged1 (lvl - 1)).data
  have hpaged2 := onlyData_paged hpaged1 hlevels
  have hlast := pushed_push hpaged2 w frame
  rw [onlyData_segs hfirst] at hcopies
  rw [onlyData_segs hlevels, onlyData_segs hfirst] at hlast
  rw [State.enterPushes, if_neg hlvl]
  exact ⟨_, _, _, _, pushed_push h w _, hcopies, hlast, get_push_of_ne hpaged2 frame (by decide)⟩

/-- LEAVE moves the frame pointer to the stack pointer first (41_data_movement R354). -/
theorem withSp_bp (s : State) :
    s.withSp (s.ssz.trunc s.regs.r5) = s.regs.setRn s.ssz.width .n4 (s.regs.rn s.ssz.width .n5) := by
  rw [State.withSp, Bank.withSp_eq, ← setWidth_trunc_get s.ssz s.regs .n5]
  rfl

end Enter

/-- Settles O48: all of ENTER but its last step is pushes and writes of the frame pointer. -/
theorem enterAndLeave : Obligations.EnterAndLeave := by
  unfold Obligations.EnterAndLeave
  intro size level s h w g z lvl n down frame
  refine ⟨?_, ?_⟩
  · have hpushes : s.pushesDown w n (s.enterPushes w lvl frame) := State.pushesDown.enterPushes h lvl frame
    have hbp := hpushes.setBp h s.osz frame
    obtain ⟨⟨hsame, hflags⟩, hsp, hhigh, hothers⟩ := hbp.locals h size
    have hn5 := get_adjustSp_of_ne ((s.enterPushes w lvl frame).setReg w .n5 frame) (-(size.setWidth 32)) (r := .n5)
      (by decide)
    refine ⟨_, execEnter_eq h size level, hsame, hflags, (Bank.rn_congr s.osz hn5).trans (Bank.rn_setRn ..), hsp, hhigh,
      hothers, hpushes.mem, fun hzero => ?_, fun hlvl => ?_⟩
    · have hpush : s.enterPushes w lvl frame = s.push w (s.regs.rn w .n5) := if_pos hzero
      have hstored := push_stored h (s.regs.rn w .n5)
      have hbp5 := get_push_of_ne h (s.regs.rn w .n5) (r := .n5) (by decide)
      rw [← hpush] at hstored hbp5
      refine ⟨hstored, fun hw => ?_⟩
      exact (congrArg upperHalf hn5).trans ((Bank.upperHalf_setRn hw frame).trans (congrArg upperHalf hbp5))
    · obtain ⟨b1, m1, b2, m2, hfirst, hcopies, hlast, hframe⟩ := enterPushes_copies h hlvl frame
      exact ⟨b1, m1, b2, m2, _, hfirst, hcopies, hlast, hn5.trans (Bank.get_setRn_congr s.osz hframe frame)⟩
  · intro s1
    have hs1 : s.setRegs (s.withSp (s.ssz.trunc s.regs.r5)) = s1 := congrArg (State.setRegs · s) (withSp_bp s)
    have hexec : exec .leave s = .next (s1.popReg w .n5) :=
      congrArg (fun u : State => Host.Outcome.next (u.popReg w .n5)) hs1
    have hstart : s.onlyData s1 := setRegs_onlyData h _
    have hpaged := onlyData_paged h hstart
    obtain ⟨hsame, hflags⟩ := onlyData_leaves (onlyData_trans hstart (popReg_onlyData (w := w) hpaged .n5))
    exact ⟨_, hexec, hsame, hflags, popReg_kept hpaged .n5, popReg_regs hpaged .n5⟩

end Sys2Proof.Machine

/-! PROOFS. Bit tests and bit scans (42_arithmetic_logic R430 to R435): the bit string as words of the operand size, the
mask of one bit, and a scan as a search through the bit numbers in order. -/

namespace Sys2Proof.Machine

/-! ### Bit tests -/

section BitTest

variable {s : State} {rm : RM} {x : BitIdx}

/-- A signed bit index counts whole words and a bit within one (42_arithmetic_logic R430). -/
theorem toInt_bitIndex (w : Width) (v : BitVec w.bits) :
    v.toInt = v.toInt / (w.bits : Int) * w.bits + (v.toNat % w.bits : Nat) := by
  rw [BitVec.toInt_eq_toNat_cond]
  cases w <;> simp only [Width.bits] <;> omega

theorem getLsbD_bitMask {n i j : Nat} (hj : j < n) : (BitVec.ofNat n (2 ^ i)).getLsbD j = decide (j = i) := by
  rw [BitVec.getLsbD_ofNat, Nat.testBit_two_pow]
  simp [hj, eq_comm]

/-- What a bit test writes in EFLAGS (42_arithmetic_logic R430). -/
def bitTable (bit : Bool) (f f' : Eflags) : Prop := f'.cf = bit ∧ f'.zf = f.zf ∧ f.sameControl f'

theorem bitTable_bitFlags (h : s.paged = true) :
    bitTable ((s.placeVal s.osz.width (s.bitPlace s.osz.width rm x)).getLsbD (s.bitNum s.osz.width x)) s.flags
      (s.bitFlags rm x) := by
  obtain ⟨m, hm, -⟩ := placeTouch_only h s.osz.width (s.bitPlace s.osz.width rm x)
  simp only [State.bitFlags, hm]
  exact ⟨rfl, rfl, rfl, rfl, rfl, rfl, rfl⟩

/-- What `State.bitModify` leaves: the flags of the test, and at the bit's place the word changed by `op`. -/
theorem completes_bitModify (h : s.paged = true) {i : Instr} {op : (n : Nat) → BitVec n → BitVec n → BitVec n}
    {Q : BitVec s.osz.width.bits → Prop} (hi : exec i s = .next (s.bitModify op rm x))
    (hQ : Q (op _ (s.placeVal s.osz.width (s.bitPlace s.osz.width rm x))
      (BitVec.ofNat _ (2 ^ s.bitNum s.osz.width x)))) :
    completes i s fun t => ∃ r, s.sameButData t ∧
      bitTable ((s.placeVal s.osz.width (s.bitPlace s.osz.width rm x)).getLsbD (s.bitNum s.osz.width x)) s.flags
        t.flags ∧
      s.wrote t s.osz.width (s.bitPlace s.osz.width rm x) r ∧ Q r := by
  have hwritten := completes_written h (placeTouch_only h _ _) hi (.inr rfl)
    (Q := fun t r => t.flags = s.bitFlags rm x ∧ Q r) fun hflags => ⟨hflags, hQ⟩
  exact completes_mono hwritten fun t ⟨r, hsame, hwrote, hflags, hr⟩ =>
    ⟨r, hsame, hflags ▸ bitTable_bitFlags h, hwrote, hr⟩

end BitTest

/-- Settles O35: the flags are those of the test, and the mask of one bit sets, clears or flips that bit alone. -/
theorem bitTestResults : Obligations.BitTestResults := by
  unfold Obligations.BitTestResults
  intro rm x s h n p i v flagsOk
  have hbits : 0 < n.bits := by have := four_le_bits n; omega
  have hmask : ∀ j, j < n.bits → (BitVec.ofNat n.bits (2 ^ i)).getLsbD j = decide (j = i) := fun j hj =>
    getLsbD_bitMask hj
  refine ⟨?_, ?_, ?_, ?_, ?_, ?_, ?_, ?_⟩
  · rintro r rfl
    rfl
  · rintro m k rfl rfl
    rfl
  · rintro k rfl
    rfl
  · rintro r rfl
    refine ⟨Nat.mod_lt _ hbits, _, toInt_bitIndex n _, ?_⟩
    rintro m rfl
    rfl
  · obtain ⟨hsame, hregs, hmem⟩ := setFlags_leaves (f := s.bitFlags rm x) (placeTouch_only h n p)
    exact ⟨_, rfl, hsame, bitTable_bitFlags h, hregs, hmem⟩
  · refine completes_bitModify h rfl fun j hj => ?_
    rw [BitVec.getLsbD_or, hmask j hj]
    by_cases hji : j = i <;> simp [hji, v, p, n]
  · refine completes_bitModify h rfl fun j hj => ?_
    rw [BitVec.getLsbD_and, BitVec.getLsbD_not, hmask j hj]
    by_cases hji : j = i <;> simp [hji, hj, v, p, n]
  · refine completes_bitModify h rfl fun j hj => ?_
    rw [BitVec.getLsbD_xor, hmask j hj]
    by_cases hji : j = i <;> simp [hji, v, p, n]

/-! ### Bit scans -/

/-- A search through a list in the order `R` finds the first element of it that satisfies `q`. -/
theorem find?_first {α : Type} {R : α → α → Prop} (hrefl : ∀ a, R a a) {q : α → Bool} :
    ∀ {l : List α}, l.Pairwise R → (∃ a ∈ l, q a = true) →
      ∃ a, l.find? q = some a ∧ a ∈ l ∧ q a = true ∧ ∀ b ∈ l, q b = true → R a b
  | [], _, hex => by simp at hex
  | a :: l, hl, hex => by
    rw [List.pairwise_cons] at hl
    by_cases ha : q a = true
    · refine ⟨a, by simp [ha], by simp, ha, fun b hb _ => ?_⟩
      rcases List.mem_cons.1 hb with rfl | hb
      · exact hrefl b
      · exact hl.1 b hb
    · have hex' : ∃ b ∈ l, q b = true := by simpa [ha] using hex
      obtain ⟨b, hfind, hmem, hb, hbest⟩ := find?_first hrefl hl.2 hex'
      refine ⟨b, by simp [ha, hfind], List.mem_cons_of_mem _ hmem, hb, fun c hc hqc => ?_⟩
      rcases List.mem_cons.1 hc with rfl | hc
      · exact absurd hqc ha
      · exact hbest c hc hqc

section BitScan

variable {n : Nat} {v : BitVec n}

theorem exists_getLsbD_of_ne_zero (hv : v ≠ 0) : ∃ j, j < n ∧ v.getLsbD j = true := by
  by_contra hno
  push Not at hno
  exact hv (BitVec.eq_of_getLsbD_eq fun j hj => by simpa using hno j hj)

/-- `k` is a set bit that stands in the relation `R` to every set bit. -/
def bestBit (R : Nat → Nat → Prop) (v : BitVec n) (k : Nat) : Prop :=
  k < n ∧ v.getLsbD k = true ∧ ∀ j, v.getLsbD j = true → R k j

/-- A search through the bit numbers in the order `R` finds the best set bit. -/
theorem bestBit_find? {R : Nat → Nat → Prop} (hrefl : ∀ a, R a a) (hv : v ≠ 0) {l : List Nat} (hl : l.Pairwise R)
    (hmem : ∀ j, j ∈ l ↔ j < n) : bestBit R v ((l.find? fun i => v.getLsbD i).getD n) := by
  obtain ⟨j, hj, hbit⟩ := exists_getLsbD_of_ne_zero hv
  obtain ⟨k, hfind, hk, hset, hbest⟩ := find?_first hrefl hl ⟨j, (hmem j).2 hj, hbit⟩
  rw [hfind]
  exact ⟨(hmem k).1 hk, hset, fun i hi => hbest i ((hmem i).2 (BitVec.lt_of_getLsbD hi)) hi⟩

theorem lowestBit_best (hv : v ≠ 0) : bestBit (· ≤ ·) v (lowestBit n v) :=
  bestBit_find? Nat.le_refl hv List.pairwise_le_range fun _ => List.mem_range

theorem highestBit_best (hv : v ≠ 0) : bestBit (· ≥ ·) v (highestBit n v) :=
  bestBit_find? (R := (· ≥ ·)) Nat.le_refl hv (List.pairwise_reverse.2 List.pairwise_le_range) fun _ => by simp

end BitScan

/-- What `State.bitScan` leaves: the best set bit in the register where there is one, and ZF where there is none. -/
theorem completes_bitScan {s : State} (h : s.paged = true) {i : Instr} {scan : (n : Nat) → BitVec n → Nat} {r : Num8}
    {rm : RM} {R : Nat → Nat → Prop} (hi : exec i s = .next (s.bitScan scan r rm))
    (hscan : s.rmVal s.osz.width rm ≠ 0 → bestBit R (s.rmVal s.osz.width rm) (scan _ (s.rmVal s.osz.width rm))) :
    completes i s fun t => s.sameButData t ∧ s.mem.kept t.mem ∧ s.flags.sameControl t.flags ∧
      t.flags.zf = decide ((s.rmVal s.osz.width rm).toNat = 0) ∧
      ∃ x : BitVec s.osz.width.bits, t.regs = s.regs.setRn s.osz.width r x ∧
        ((s.rmVal s.osz.width rm).toNat ≠ 0 → bestBit R (s.rmVal s.osz.width rm) x.toNat) := by
  refine completes_mono (completes_setRegs (rmTouch_only h _ rm) hi) fun t ⟨hsame, hmem, hregs, hflags⟩ => ?_
  rw [rmTouch_regs h] at hregs
  rw [rmTouch_flags h] at hflags
  refine ⟨hsame, hmem, hflags ▸ ⟨rfl, rfl, rfl, rfl, rfl⟩, ?_, _, hregs, fun hne => ?_⟩
  · rw [hflags, Bool.eq_iff_iff]
    simp [BitVec.toNat_eq]
  · have hv : s.rmVal s.osz.width rm ≠ 0 := fun h0 => hne (by simp [h0])
    have hbest := hscan hv
    rw [if_neg hv, BitVec.toNat_ofNat, Nat.mod_eq_of_lt (hbest.1.trans Nat.lt_two_pow_self)]
    exact hbest

/-- Settles O36: each scan is a search through the bit numbers, upwards for BSF and downwards for BSR. -/
theorem bitScanResults : Obligations.BitScanResults := by
  unfold Obligations.BitScanResults
  intro r rm s h n v scanned
  exact ⟨completes_bitScan h rfl lowestBit_best, completes_bitScan h rfl highestBit_best⟩

end Sys2Proof.Machine

/-! PROOFS. Decimal and ASCII adjustments (42_arithmetic_logic R436 to R441): bytes and words as numbers, and AH and AL
as the halves of AX. -/

namespace Sys2Proof.Machine

theorem sameButData_setRegs_setFlags_drew (s : State) (b : Bank) (f : Eflags) :
    s.sameButData ((s.setRegs b).setFlags f).drew := ⟨⟨⟨⟨rfl, rfl, rfl, rfl, rfl⟩, rfl, rfl⟩, rfl⟩, rfl⟩

theorem toNat_and_low4 (a : Byte) : (a &&& 0x0F).toNat = a.toNat % 16 := by
  rw [BitVec.toNat_and]
  exact Nat.and_two_pow_sub_one_eq_mod a.toNat 4

theorem lowAdjust_eq (s : State) : s.lowAdjust = (decide (9 < (s.regs.r8 .n0).toNat % 16) || s.flags.af) := by
  rw [State.lowAdjust, toNat_and_low4]

/-- The low digit of AL kept and the high digit cleared (42_arithmetic_logic R438, R439). -/
theorem toNat_and_FF0F (x : BitVec 16) : (x &&& 0xFF0F).toNat = x.toNat / 256 * 256 + x.toNat % 16 := by
  have hmask : ∀ j < 16, Nat.testBit 0xFF0F j = decide (j < 4 ∨ 8 ≤ j) := by decide
  have hsplit : (x.toNat &&& 0xFF0F) = 2 ^ 8 * (x.toNat / 2 ^ 8) + x.toNat % 2 ^ 4 := by
    refine Nat.eq_of_testBit_eq fun j => ?_
    rw [Nat.testBit_and, Nat.testBit_two_pow_mul_add _ (by omega), Nat.testBit_mod_two_pow, Nat.testBit_div_two_pow]
    by_cases hj : j < 16
    · rw [hmask j hj]
      by_cases hlow : j < 8
      · simp [hlow, Nat.not_le.2 hlow, Bool.and_comm]
      · simp [hlow, Nat.not_lt.1 hlow]
    · rw [if_neg (by omega), Nat.sub_add_cancel (by omega), show x.toNat.testBit j = false from
        x.getLsbD_of_ge j (by omega), Bool.false_and]
  rw [BitVec.toNat_and]
  exact hsplit.trans (by omega)

/-- AH and AL are the halves of AX (10_state R32, R33). -/
theorem Bank.setRn_ah_al (b : Bank) (h l : Byte) :
    (b.setRn .b8 .n4 h).setRn .b8 .n0 l = b.setRn .b16 .n0 (h ++ l) := by
  have hword : ∀ c : Word,
      (c.extractLsb' 16 16 ++ h ++ c.extractLsb' 0 8).extractLsb' 8 24 ++ l = c.extractLsb' 16 16 ++ (h ++ l) :=
    fun c => by
      rw [extract_top24 (c.extractLsb' 16 16 ++ h) (c.extractLsb' 0 8)]
      exact BitVec.append_assoc ..
  exact (Bank.set_set ..).trans (congrArg (b.set .n0) (hword b.r0))

/-- AL after an adjustment upwards (42_arithmetic_logic R436). -/
theorem toNat_adjustUp (a : Byte) (low high : Bool) :
    (if high then (if low then a + 6 else a) + 0x60 else if low then a + 6 else a).toNat =
      (a.toNat + (if low then 6 else 0) + (if high then 0x60 else 0)) % 256 := by
  have ha := a.isLt
  cases low <;> cases high <;> simp [BitVec.toNat_add] <;> omega

/-- AL after an adjustment downwards (42_arithmetic_logic R437). -/
theorem toNat_adjustDown (a : Byte) (low high : Bool) :
    (if high then (if low then a - 6 else a) - 0x60 else if low then a - 6 else a).toNat =
      (512 + a.toNat - (if low then 6 else 0) - (if high then 0x60 else 0)) % 256 := by
  have ha := a.isLt
  cases low <;> cases high <;> (simp [BitVec.toNat_sub]; omega)

/-- AX after AAA (42_arithmetic_logic R438). -/
theorem toNat_asciiUp (x : BitVec 16) (low : Bool) :
    ((if low then x + 0x106 else x) &&& 0xFF0F).toNat =
      (let y := if low then (x.toNat + 0x106) % 65536 else x.toNat; y / 256 * 256 + y % 16) := by
  rw [toNat_and_FF0F]
  cases low <;> rfl

/-- AX after AAS (42_arithmetic_logic R439). -/
theorem toNat_asciiDown (x : BitVec 16) (low : Bool) :
    ((if low then x - 6 - 0x100 else x) &&& 0xFF0F).toNat =
      (let y := if low then (65536 + x.toNat - 0x106) % 65536 else x.toNat; y / 256 * 256 + y % 16) := by
  have hsub : (x - 6 - 0x100).toNat = (65536 + x.toNat - 0x106) % 65536 := by
    have hx := x.isLt
    simp only [BitVec.toNat_sub, BitVec.reduceToNat]
    omega
  rw [toNat_and_FF0F]
  cases low
  · rfl
  · exact congrArg (fun y => y / 256 * 256 + y % 16) hsub

/-- Settles O37: each result is the model's sum, difference, quotient or remainder as a number. -/
theorem decimalAdjustResults : Obligations.DecimalAdjustResults := by
  unfold Obligations.DecimalAdjustResults
  intro ib s h al ah ax low high
  have hlow : s.lowAdjust = low := lowAdjust_eq s
  have hhigh : s.highAdjust = high := rfl
  have hsame := sameButData_setRegs_setFlags_drew s
  refine ⟨?_, ?_, ?_, ?_, fun hib => ?_, fun hib => ⟨_, if_pos (BitVec.eq_of_toNat_eq hib),
    raised_of_onlyTouched (onlyTouched_refl h) .de⟩, ?_⟩
  · have hr := toNat_adjustUp (s.regs.r8 .n0) low high
    rw [← hlow, ← hhigh] at hr ⊢
    exact ⟨_, rfl, _, hsame _ _, rfl, rfl, hr, rfl, rfl, ofResult_szp s.flags _, ⟨rfl, rfl, rfl, rfl, rfl⟩⟩
  · have hr := toNat_adjustDown (s.regs.r8 .n0) low high
    rw [← hlow, ← hhigh] at hr ⊢
    exact ⟨_, rfl, _, hsame _ _, rfl, rfl, hr, rfl, Bool.or_comm .., ofResult_szp s.flags _,
      ⟨rfl, rfl, rfl, rfl, rfl⟩⟩
  · rw [← hlow]
    exact ⟨_, rfl, _, hsame _ _, rfl, rfl, toNat_asciiUp _ _, rfl, rfl, ⟨rfl, rfl, rfl, rfl, rfl⟩⟩
  · rw [← hlow]
    exact ⟨_, rfl, _, hsame _ _, rfl, rfl, toNat_asciiDown _ _, rfl, rfl, ⟨rfl, rfl, rfl, rfl, rfl⟩⟩
  · have hne : ib ≠ 0 := fun h0 => hib (congrArg BitVec.toNat h0)
    exact ⟨_, if_neg hne, _, _, hsame _ _, rfl, Bank.setRn_ah_al .., BitVec.toNat_udiv .., BitVec.toNat_umod ..,
      ofResult_szp s.flags _, ⟨rfl, rfl, rfl, rfl, rfl⟩⟩
  · have hsum : (s.regs.r8 .n0 + s.regs.r8 .n4 * ib).toNat = (al + ah * ib.toNat) % 256 := by
      rw [BitVec.toNat_add, BitVec.toNat_mul, Nat.add_mod_mod]
    have hax := (Bank.setRn_ah_al s.regs 0 (s.regs.r8 .n0 + s.regs.r8 .n4 * ib)).trans
      (congrArg (s.regs.setRn .b16 .n0) (BitVec.setWidth_eq_append (by decide)).symm)
    exact ⟨_, rfl, _, hsame _ _, rfl, hax, hsum, ofResult_szp s.flags _, ⟨rfl, rfl, rfl, rfl, rfl⟩⟩

end Sys2Proof.Machine

/-! PROOFS. The instructions that change a flag alone, the flags in AH, HLT and WAIT (42_arithmetic_logic R442 to R446,
41_data_movement R347, R348, 45_system R581 to R585). -/

namespace Sys2Proof.Machine

/-- Settles O38: where the check of privilege passes, each writes its flags, AH or the halt state and nothing else. -/
theorem flagAndControlInstructions : Obligations.FlagAndControlInstructions := by
  unfold Obligations.FlagAndControlInstructions
  intro s
  refine ⟨fun hcpl => ?_, fun hiopl => ?_, fun hiopl => ?_, ⟨_, rfl, rfl⟩, ⟨_, rfl, rfl⟩, ⟨_, rfl, rfl⟩, ⟨_, rfl, rfl⟩,
    ⟨_, rfl, rfl⟩, ⟨_, rfl, rfl⟩, ⟨_, rfl, _, rfl, rfl, ⟨rfl, rfl, rfl, rfl, rfl⟩, rfl, rfl, rfl, rfl, rfl⟩, ?_⟩
  · exact ⟨_, rfl, requireCpl0_pass _ hcpl⟩
  · exact ⟨_, rfl, checkIopl_pass _ hiopl⟩
  · exact ⟨_, rfl, checkIopl_pass _ hiopl⟩
  · have hbit : ∀ k, k < 8 → (s.flags.toWord.extractLsb' 0 8).getLsbD k = s.flags.toWord.getLsbD k := fun k hk => by
      simp [hk]
    have hflag := fun k hk => (hbit k hk).trans (s.flags.getLsbD_toWord k)
    exact ⟨_, rfl, _, rfl, hflag 7 (by decide), hflag 6 (by decide), hflag 5 (by decide), hflag 4 (by decide),
      hflag 3 (by decide), hflag 2 (by decide), hflag 1 (by decide), hflag 0 (by decide)⟩

end Sys2Proof.Machine

/-! PROOFS. Relative jumps, conditional jumps and loops (43_control_transfer R480 to R484, R495 to R498): the target as
a sum of integers, and the counter as a register of the address size. -/

namespace Sys2Proof.Machine

/-! ### Relative targets -/

theorem ofInt_toNat_add_toInt {n : Nat} (x d : BitVec n) : BitVec.ofInt n (x.toNat + d.toInt) = x + d := by
  rw [BitVec.ofInt_add, ofInt_toNat, BitVec.ofInt_toInt]

theorem setWidth16_ofInt (k : Int) : (BitVec.ofInt 32 k).setWidth 16 = BitVec.ofInt 16 k := by
  apply BitVec.eq_of_toNat_eq
  zify
  rw [BitVec.toNat_setWidth, Int.natCast_emod, toNat_ofInt_emod, toNat_ofInt_emod]
  exact Int.emod_emod_of_dvd k (by decide)

/-- A truncated offset is the remainder of the integer it stands for (00_scope R11). -/
theorem trunc_ofInt (z : Sz) (k : Int) : z.trunc (BitVec.ofInt 32 k) = BitVec.ofInt 32 (k % 2 ^ z.width.bits) := by
  apply BitVec.eq_of_toNat_eq
  zify
  cases z with
  | s16 =>
    rw [trunc_s16, setWidth16_ofInt, toNat_setWidth_ofInt, toNat_ofInt_emod]
    change _ = k % 65536 % 4294967296
    omega
  | s32 =>
    rw [trunc_s32, toNat_ofInt_emod, toNat_ofInt_emod]
    exact (Int.emod_emod_of_dvd k (dvd_refl _)).symm

/-- `RelTarget` adds the signed displacement to the advanced EIP (43_control_transfer R480). -/
theorem relTarget_eq (s : State) (rel : Rel) :
    s.relTarget rel = BitVec.ofInt 32 (((s.eip.toNat : Int) + (relDisp rel).toInt) % 2 ^ s.osz.width.bits) := by
  rw [← trunc_ofInt, ofInt_toNat_add_toInt]
  rfl

theorem toInt_relDisp (rel : Rel) : (relDisp rel).toInt =
    match rel with | .short v => v.toInt | .near (.w v) => v.toInt | .near (.d v) => v.toInt := by
  rcases rel with v | v | v
  · exact BitVec.toInt_signExtend_of_le (by decide)
  · exact BitVec.toInt_signExtend_of_le (by decide)
  · rfl

/-- A conditional jump goes to its target where the condition of its table row holds (43_control_transfer R481 to
R483). -/
theorem completes_jcc {s : State} {i : Instr} {c : Cond} {rel : Rel} (hi : exec i s = .next (s.jcc c rel)) :
    completes i s fun t => (condTable s.flags c → t = { s with eip := s.relTarget rel }) ∧
      (¬condTable s.flags c → t = s) := by
  refine ⟨_, hi, fun hc => ?_, fun hc => ?_⟩
  · rw [State.jcc, (condHolds_iff _ _).2 hc]
    rfl
  · rw [State.jcc, Bool.eq_false_iff.2 fun hholds => hc ((condHolds_iff _ _).1 hholds)]
    rfl

/-! ### Loops -/

/-- A register of the address size is 0 as an offset where it is 0 (44_string_io R540). -/
theorem asReg_eq_zero_iff (s : State) (i : Num8) : s.asReg i = 0 ↔ (s.regs.rn s.asz.width i).toNat = 0 := by
  have hoff := trunc_get_sub s.asz s.regs i 0
  simp only [BitVec.sub_zero] at hoff
  have hbits : s.asz.width.bits ≤ 32 := by cases s.asz <;> decide
  rw [State.asReg, hoff, ← BitVec.toNat_inj, BitVec.toNat_setWidth_of_le hbits]
  rfl

/-- One off the counter (43_control_transfer R495). -/
theorem withAsReg_sub_one (s : State) (i : Num8) :
    s.withAsReg i (s.asReg i - 1) =
      s.regs.setRn s.asz.width i (s.regs.rn s.asz.width i - BitVec.ofNat s.asz.width.bits 1) := by
  unfold State.withAsReg State.asReg
  cases s.asz with
  | s16 =>
    simp only [trunc_s16, setWidth_sub16, setWidth16_low, ← r16_eq]
    rfl
  | s32 => rfl

theorem toNat_sub_one_eq_zero_iff {n : Nat} (hn : 0 < n) (x : BitVec n) :
    (x - BitVec.ofNat n 1).toNat = 0 ↔ x.toNat = 1 := by
  have hone : (1#n).toNat = 1 := Nat.mod_eq_of_lt (Nat.one_lt_two_pow hn.ne')
  calc (x - 1#n).toNat = 0 ↔ x - 1#n = 0#n := by rw [← BitVec.toNat_inj, BitVec.toNat_zero]
    _ ↔ x = 1#n := by rw [BitVec.sub_eq_iff_eq_add, BitVec.zero_add]
    _ ↔ x.toNat = 1 := by rw [← BitVec.toNat_inj, hone]

/-- A loop counts down, and branches unless the counter came to 0 (43_control_transfer R495 to R497). -/
theorem loopOn_eq (s : State) (cond : Bool) (b : BitVec 8) :
    let cnt := s.regs.rn s.asz.width .n1
    s.loopOn cond b = { s with
      regs := s.regs.setRn s.asz.width .n1 (cnt - BitVec.ofNat s.asz.width.bits 1)
      eip := if cnt.toNat ≠ 1 ∧ cond = true then s.relTarget (.short b) else s.eip } := by
  intro cnt
  have hbits : 0 < s.asz.width.bits := by cases s.asz <;> decide
  have hzero := asReg_eq_zero_iff (s.setRegs (s.withAsReg .n1 (s.asReg .n1 - 1))) .n1
  rw [State.setRegs_regs, withAsReg_sub_one] at hzero
  change _ ↔ (Bank.rn _ s.asz.width _).toNat = 0 at hzero
  rw [Bank.rn_setRn, toNat_sub_one_eq_zero_iff hbits] at hzero
  simp only [State.loopOn, withAsReg_sub_one, State.branch, Bool.and_eq_true, decide_eq_true_eq, ne_eq, hzero]
  rfl

/-- Settles O50: each target is an integer sum modulo the operand size, and the counter is decided by its number. -/
theorem relativeBranches : Obligations.RelativeBranches := by
  unfold Obligations.RelativeBranches
  intro rel b s disp target z cnt counted
  have hdisp : (relDisp rel).toInt = disp := toInt_relDisp rel
  have hdispShort : (relDisp (.short b)).toInt = b.toInt := toInt_relDisp (.short b)
  have hrel : s.relTarget rel = target disp := by rw [relTarget_eq, hdisp]
  have hshort : s.relTarget (.short b) = target b.toInt := by rw [relTarget_eq, hdispShort]
  have hloop : ∀ cond, s.loopOn cond b = { s with
      regs := counted, eip := if cnt.toNat ≠ 1 ∧ cond = true then target b.toInt else s.eip } := fun cond => by
    rw [loopOn_eq, hshort]
  rw [← hrel]
  refine ⟨⟨_, rfl, rfl⟩, ?_, ⟨_, rfl, ?_⟩, ⟨_, rfl, hloop _⟩, ⟨_, rfl, ?_⟩, ⟨_, rfl, ?_⟩⟩
  · simp only [List.forall_mem_cons, List.not_mem_nil, false_imp_iff, implies_true, and_true]
    and_intros <;> exact completes_jcc rfl
  · simpa using hloop true
  · simpa using hloop (!s.flags.zf)
  · simp only [State.branch, decide_eq_true_eq, asReg_eq_zero_iff, hshort]
    rfl

end Sys2Proof.Machine

/-! PROOFS. Near jumps, calls and returns (43_control_transfer R485, R488, R489, R492, R504): each is reads, pushes or
pops, then a write of EIP, unless the call/jump hook answers for it. -/

namespace Sys2Proof.Machine

section Near

variable {s u : State} {i : Instr} {w : Width}

/-- A jump after a change of registers and memory alone. -/
theorem setEip_leaves (hu : s.onlyData u) (target : Word) :
    s.sameMachine (u.setEip target) ∧ (u.setEip target).flags = s.flags := by
  obtain ⟨⟨hmachine, -⟩, hflags⟩ := onlyData_leaves hu
  exact ⟨hmachine, hflags⟩

/-- What a near jump leaves, after its reads. -/
theorem completes_nearJump (hu : s.onlyTouched u) {target : Word} (hi : exec i s = .next (u.setEip target)) :
    completes i s fun t => s.sameMachine t ∧ t.flags = s.flags ∧ t.regs = s.regs ∧ s.mem.kept t.mem ∧
      t.eip = target := by
  obtain ⟨hsame, hflags⟩ := setEip_leaves (onlyTouched_onlyData hu) target
  obtain ⟨m, rfl, hkept, -⟩ := hu
  exact ⟨_, hi, hsame, hflags, rfl, hkept, rfl⟩

/-- What a near call leaves, after its reads: the offset of the next instruction pushed. -/
theorem completes_nearCall (h : s.paged = true) (hu : s.onlyTouched u) {target : Word}
    (hi : exec i s = .next (u.nearCall w target)) :
    completes i s fun t => s.sameMachine t ∧ t.flags = s.flags ∧ t.eip = target ∧
      ∃ m1, s.mem.kept m1 ∧ pushed s.segs.ss w (s.eip.setWidth w.bits) s.regs m1 t.regs t.mem := by
  have hret : u.eip = s.eip := by
    obtain ⟨m, rfl, -⟩ := hu
    rfl
  obtain ⟨hsame, hflags⟩ := setEip_leaves
    (onlyData_trans (onlyTouched_onlyData hu) (push_onlyData (onlyTouched_paged h hu) (u.eip.setWidth w.bits))) target
  exact ⟨_, hi, hsame, hflags, rfl, hret ▸ pushed_read h hu _⟩

/-- What a near return leaves: the return offset and `k` bytes released. -/
theorem completes_nearReturn (h : s.paged = true) {extra : Word} {k : Nat} (hk : extra = BitVec.ofNat 32 k)
    (hi : exec i s = .next (s.nearReturn extra)) :
    completes i s fun t => s.sameMachine t ∧ t.flags = s.flags ∧ s.mem.kept t.mem ∧
      t.eip = (s.stackAt s.osz.width 0).setWidth 32 ∧ t.regs = s.released (s.osz.width.bytes + k) := by
  have hpop := popped_onlyData (w := s.osz.width) h
  obtain ⟨hsame, hflags⟩ := setEip_leaves
    (onlyData_trans hpop (setRegs_onlyData (onlyData_paged h hpop) ((s.popped s.osz.width).released k)))
    ((s.top s.osz.width).setWidth 32)
  have hregs : (s.popped s.osz.width).released k = s.released (s.osz.width.bytes + k) := by
    rw [← released_released]
    refine released_congr (popped_regs h) ?_ k
    rw [onlyData_segs hpop]
  rw [State.nearReturn, adjustSp_released _ hk] at hi
  exact ⟨_, hi, hsame, hflags, popped_kept h,
    congrArg (BitVec.setWidth 32) (top_stackAt (State.paged_io h) _), hregs⟩

end Near

section Hook

variable {s : State} {k : CallKind} {rm : RM}

/-- A transfer through a register, or without a hook, is the core's (43_control_transfer R504). -/
theorem hooked_eq_none (hno : s.cfg.callJmpHook = false ∨ ∃ r, rm = .reg r) : s.hooked k rm = none := by
  cases rm with
  | reg r => rfl
  | mem m => exact if_neg (by simpa using hno)

/-- A transfer through memory with a hook installed is the hook's where it is defined (43_control_transfer R504). -/
theorem hooked_mem (hc : s.cfg.callJmpHook = true) (m : MemRef) :
    s.hooked k (.mem m) =
      let seen := s.rmTouch s.osz.width (.mem m)
      (Config.callJmpHook k (s.nearTarget (.mem m)) seen).map seen.resume :=
  if_pos hc

/-- Where the hook answers, the state it leaves; else the jump. -/
theorem execJmpRm_eq {o : Option State} (ho : s.hooked .jump rm = o) :
    exec (.jmpRm rm) s = .next (o.getD ((s.rmTouch s.osz.width rm).setEip (s.nearTarget rm))) := ho ▸ rfl

theorem execCallRm_eq {o : Option State} (ho : s.hooked .call rm = o) :
    exec (.callRm rm) s = .next (o.getD ((s.rmTouch s.osz.width rm).nearCall s.osz.width (s.nearTarget rm))) :=
  ho ▸ rfl

end Hook

/-- Settles O51: the hook's answer decides between the state it leaves and the core's own jump or push and jump. -/
theorem nearTransfers : Obligations.NearTransfers := by
  unfold Obligations.NearTransfers
  intro rm rel iw s h w ret dest disp jumped called back
  have htouch := rmTouch_only h w rm
  have hjumped : s.hooked .jump rm = none → jumped := fun hn => completes_nearJump htouch (execJmpRm_eq hn)
  have hcalled : s.hooked .call rm = none → called := fun hn => completes_nearCall h htouch (execCallRm_eq hn)
  refine ⟨fun hno => ⟨hjumped (hooked_eq_none hno), hcalled (hooked_eq_none hno)⟩, ?_, ?_,
    completes_nearReturn h rfl rfl, completes_nearReturn h (BitVec.ofNat_toNat 32 iw).symm rfl⟩
  · rintro m hc rfl
    obtain ⟨m1, hm1, hkept, -⟩ := htouch
    refine ⟨m1, hkept, ?_⟩
    intro seen
    have hhook : ∀ k, s.hooked k (.mem m) = (Config.callJmpHook k dest seen).map seen.resume := fun k => by
      rw [hooked_mem hc, hm1]
      rfl
    have hjump := hhook .jump
    have hcall := hhook .call
    constructor
    · split
      · next hnone => exact hjumped (hjump.trans (congrArg (Option.map _) hnone))
      · next hsome => exact ⟨_, execJmpRm_eq (hjump.trans (congrArg (Option.map _) hsome)), rfl⟩
    · split
      · next hnone => exact hcalled (hcall.trans (congrArg (Option.map _) hnone))
      · next hsome => exact ⟨_, execCallRm_eq (hcall.trans (congrArg (Option.map _) hsome)), rfl⟩
  · obtain ⟨hsame, hflags⟩ := setEip_leaves (push_onlyData h ret) (s.relTarget (.near rel))
    have hdisp : (relDisp (.near rel)).toInt = disp := by cases rel <;> exact toInt_relDisp (.near _)
    exact ⟨_, rfl, hsame, hflags, pushed_push h w ret, hdisp ▸ relTarget_eq s (.near rel)⟩

end Sys2Proof.Machine

/-! PROOFS. Far jumps, calls and returns and the return from an interrupt (43_control_transfer R486, R487, R490, R491,
R493, R494, R503): each reads, loads CS, and where the load succeeds goes on in the new code segment. -/

namespace Sys2Proof.Machine

/-! ### The load of CS -/

section LoadCs

variable {s u t : State} {i : Instr} {sel : BitVec 16} {off : Word} {rest : State → Prop}

/-- The state after a load of CS: memory `m` as the reads left it, and the record `v`. -/
def State.loadedCs (s : State) (m : Memory) (v : SegReg) : State := (s.setMem m).setSegs (s.segs.set .cs v)

theorem loadedCs_paged (h : s.paged = true) {m : Memory} (hw : m.wf = true) (v : SegReg) :
    (s.loadedCs m v).paged = true :=
  have hio : s.io = none := State.paged_io h
  State.paged_iff.2 ⟨hio, hw⟩

/-- What is left where only registers, memory and EIP change after the load. -/
theorem loadedCs_leaves {m : Memory} {v : SegReg} (ht : (s.loadedCs m v).onlyData t) (off : Word) :
    s.sameButSegs (t.setEip off) ∧ t.segs = s.segs.set .cs v ∧ t.flags = s.flags := by
  obtain ⟨⟨hsame, hsegs⟩, hflags⟩ := setEip_leaves ht off
  exact ⟨hsame, hsegs, hflags⟩

/-- Instruction `i` reads, loads CS with the selector `sel`, and where that succeeds goes on at `off` in the new code
segment, with `rest` of the state it leaves. -/
def State.transfersFar (s : State) (i : Instr) (sel : BitVec 16) (off : Word) (rest : State → Prop) : Prop :=
  ∃ u k, s.onlyTouched u ∧ exec i s = .next (loadSeg .cs sel u k) ∧
    ∀ m v, s.mem.kept m → m.wf = true →
      let t := k (s.loadedCs m v)
      s.sameButSegs t ∧ t.segs = s.segs.set .cs v ∧ t.eip = off ∧ rest t

/-- Reads before a load of a segment register do not change its outcome. -/
theorem segLoad_of_onlyTouched (h : s.paged = true) (hu : s.onlyTouched u) (g : Seg) (sel : BitVec 16) :
    u.segLoad (u.segs.get g) sel = s.segOutcome (s.segs.get g) sel := by
  rw [segLoad_eq_segOutcome (onlyTouched_paged h hu), segOutcome_of_onlyTouched hu]
  obtain ⟨m, rfl, -⟩ := hu
  rfl

theorem completes_far_loaded (h : s.paged = true) (hf : s.transfersFar i sel off rest) {v : SegReg}
    (hv : s.segOutcome s.segs.cs sel = some v) :
    completes i s fun t => s.sameButSegs t ∧ t.segs = s.segs.set .cs v ∧ t.eip = off ∧ rest t := by
  obtain ⟨u, k, hu, hexec, hk⟩ := hf
  obtain ⟨m, ht, hkept, hw⟩ := onlyTouched_trans hu (segLoadTouch_only (onlyTouched_paged h hu) sel)
  rw [loadSeg_some ((segLoad_of_onlyTouched h hu .cs sel).trans hv), ht] at hexec
  exact ⟨_, hexec, hk m v hkept hw⟩

/-- The load raises #GP with the selector, and nothing is written (20_memory R136). -/
theorem completes_far_refused (h : s.paged = true) (hf : s.transfersFar i sel off rest)
    (hv : s.segOutcome s.segs.cs sel = none) :
    completes i s fun t => s.raised t ⟨13, .fault, true, true, sel.setWidth 32⟩ := by
  obtain ⟨u, k, hu, hexec, -⟩ := hf
  rw [loadSeg_none ((segLoad_of_onlyTouched h hu .cs sel).trans hv)] at hexec
  exact ⟨_, hexec, raised_of_onlyTouched
    (onlyTouched_trans hu (segLoadTouch_only (onlyTouched_paged h hu) sel)) (.gp (sel.setWidth 32))⟩

end LoadCs

/-! ### Far jumps and calls -/

section Far

variable {s u : State} {i : Instr} {w : Width} {sel : BitVec 16} {off : Word}

theorem transfersFar_farJump (h : s.paged = true) (hu : s.onlyTouched u) (hi : exec i s = .next (u.farJump sel off)) :
    s.transfersFar i sel off fun t => t.flags = s.flags ∧ t.regs = s.regs ∧ s.mem.kept t.mem := by
  refine ⟨u, _, hu, hi, fun m v hkept hw => ?_⟩
  obtain ⟨hsame, hsegs, hflags⟩ := loadedCs_leaves (onlyData_refl (loadedCs_paged h hw v)) off
  exact ⟨hsame, hsegs, rfl, hflags, rfl, hkept⟩

/-- A far call pushes the old selector and the offset of the next instruction, after the load (43_control_transfer
R503). -/
theorem transfersFar_farCall (h : s.paged = true) (hu : s.onlyTouched u)
    (hi : exec i s = .next (u.farCall w sel off)) :
    s.transfersFar i sel off fun t => t.flags = s.flags ∧ ∃ m1, s.mem.kept m1 ∧
      pushSeq s.segs.ss w [s.segs.cs.sel.setWidth w.bits, s.eip.setWidth w.bits] s.regs m1 t.regs t.mem := by
  dsimp only [State.farCall] at hi
  refine ⟨u, _, hu, hi, fun m v hkept hw => ?_⟩
  obtain ⟨m0, rfl, -⟩ := hu
  have hpaged := loadedCs_paged h hw v
  obtain ⟨hsame, hsegs, hflags⟩ := loadedCs_leaves
    (pushList_onlyData [s.segs.cs.sel.setWidth w.bits, s.eip.setWidth w.bits] hpaged) off
  exact ⟨hsame, hsegs, rfl, hflags, m, hkept, pushSeq_pushList _ hpaged⟩

/-! ### Far returns -/

/-- An entry of the stack, after reads (43_control_transfer R493, R494). -/
theorem stackVal_of_onlyTouched (h : s.paged = true) (hu : s.onlyTouched u) (w : Width) (k : Nat) :
    u.stackVal w k = s.stackAt w (k * w.bytes) := by
  have hoff : u.stackOff w k = s.stackOff w k := by
    obtain ⟨m, rfl, -⟩ := hu
    rfl
  rw [← stackVal_stackAt (State.paged_io h), State.stackVal, hoff]
  exact placeVal_of_onlyTouched h hu w (.mem .ss (s.stackOff w k))

theorem stackTouch_only (h : s.paged = true) (w : Width) (k : Nat) : s.onlyTouched (s.stackTouch w k) :=
  segTouch_only h w .ss _

/-- Selector and offset on the stack, read in turn (43_control_transfer R493, R494). -/
theorem returnAddress_eq (h : s.paged = true) (w : Width) :
    s.stackVal w 0 = s.stackAt w 0 ∧ (s.stackTouch w 0).stackVal w 1 = s.stackAt w w.bytes := by
  have hoff := stackVal_of_onlyTouched h (onlyTouched_refl h) w 0
  have hsel := stackVal_of_onlyTouched h (stackTouch_only h w 0) w 1
  rw [Nat.zero_mul] at hoff
  rw [Nat.one_mul] at hsel
  exact ⟨hoff, hsel⟩

/-- RETF releases what it read and the bytes it names (43_control_transfer R493). -/
theorem transfersFar_farReturn (h : s.paged = true) {extra : Word} {k : Nat} (hk : extra = BitVec.ofNat 32 k)
    (hi : exec i s = .next (s.farReturn w extra)) :
    s.transfersFar i ((s.stackAt w w.bytes).setWidth 16) ((s.stackAt w 0).setWidth 32) fun t =>
      s.mem.kept t.mem ∧ t.regs = s.released (2 * w.bytes + k) ∧ t.flags = s.flags := by
  have h0 := stackTouch_only h w 0
  have h1 := onlyTouched_trans h0 (stackTouch_only (onlyTouched_paged h h0) w 1)
  obtain ⟨hoff, hsel⟩ := returnAddress_eq h w
  rw [State.farReturn, hoff, hsel, hk, ← BitVec.ofNat_add] at hi
  refine ⟨_, _, h1, hi, fun m v hkept hw => ?_⟩
  rw [adjustSp_released _ rfl]
  obtain ⟨hsame, hsegs, hflags⟩ := loadedCs_leaves
    (setRegs_onlyData (loadedCs_paged h hw v) (s.released (2 * w.bytes + k))) ((s.stackAt w 0).setWidth 32)
  exact ⟨hsame, hsegs, rfl, hkept, rfl, hflags⟩

/-- IRET also writes EFLAGS, by the mode and the levels before the load (43_control_transfer R494, 41_data_movement
R352). -/
theorem transfersFar_interruptReturn (h : s.paged = true) (hi : exec i s = .next (s.interruptReturn w)) :
    s.transfersFar i ((s.stackAt w w.bytes).setWidth 16) ((s.stackAt w 0).setWidth 32) fun t =>
      s.mem.kept t.mem ∧ t.regs = s.released (3 * w.bytes) ∧
        t.flags.toWord = s.flagsWritten ((s.stackAt w (2 * w.bytes)).setWidth 32) := by
  have h0 := stackTouch_only h w 0
  have h1 := onlyTouched_trans h0 (stackTouch_only (onlyTouched_paged h h0) w 1)
  have h2 := onlyTouched_trans h1 (stackTouch_only (onlyTouched_paged h h1) w 2)
  obtain ⟨hoff, hsel⟩ := returnAddress_eq h w
  rw [State.interruptReturn, hoff, hsel, stackVal_of_onlyTouched h h1] at hi
  refine ⟨_, _, h2, hi, fun m v hkept hw => ?_⟩
  rw [adjustSp_released _ rfl]
  obtain ⟨hsame, hsegs, -⟩ := loadedCs_leaves
    (setRegs_onlyData (loadedCs_paged h hw v) (s.released (3 * w.bytes))) ((s.stackAt w 0).setWidth 32)
  obtain ⟨m2, hm2, -⟩ := h2
  refine ⟨hsame, hsegs, rfl, hkept, rfl, ?_⟩
  rw [hm2]
  exact toWord_flagsFrom s _

end Far

/-- Settles O52: the outcome of the load of CS decides, for each form alike. -/
theorem farTransfers : Obligations.FarTransfers := by
  unfold Obligations.FarTransfers
  intro p m iw s h w far off moff msel jumped called back
  have hfar {i sel off rest} (hf : s.transfersFar i sel off rest) : far i sel off rest := by
    dsimp only [far]
    split
    · next v hv => exact completes_far_loaded h hf hv
    · next hv => exact completes_far_refused h hf hv
  have hself := onlyTouched_refl h
  have htouch := farTouch_only h m
  have hsel : s.farSel m = msel := farSel_eq h m
  have hoff : farOff p = off := by
    obtain ⟨o, sel⟩ := p
    cases o
    · rfl
    · exact BitVec.setWidth_eq _
  have hiretd := transfersFar_interruptReturn (i := .iretd) (w := .b32) h rfl
  rw [BitVec.setWidth_eq (s.stackAt .b32 (2 * Width.bytes .b32))] at hiretd
  refine ⟨hfar (transfersFar_farJump h hself (hoff ▸ rfl)), hfar (transfersFar_farJump h htouch (hsel ▸ rfl)),
    hfar (transfersFar_farCall h hself (hoff ▸ rfl)), hfar (transfersFar_farCall h htouch (hsel ▸ rfl)),
    hfar (transfersFar_farReturn (k := 0) h rfl rfl),
    hfar (transfersFar_farReturn h (BitVec.ofNat_toNat 32 iw).symm rfl),
    hfar (transfersFar_interruptReturn (w := .b16) h rfl), hfar hiretd⟩

end Sys2Proof.Machine

/-! PROOFS. Software interrupts, BOUND and illegal encodings (43_control_transfer R499 to R502, 45_system R618, R619,
60_exceptions R645). -/

namespace Sys2Proof.Machine

theorem onlyRegs_of_onlyTouched {s u : State} (hu : s.onlyTouched u) : s.onlyRegs u ∧ u.regs = s.regs := by
  obtain ⟨hsame, hflags⟩ := onlyData_leaves (onlyTouched_onlyData hu)
  obtain ⟨m, rfl, hkept, -⟩ := hu
  exact ⟨⟨hsame, hflags, hkept⟩, rfl⟩

section Bound

variable {s : State}

/-- BOUND reads both bounds whatever it finds (43_control_transfer R502). -/
def State.boundTouch (m : MemRef) (s : State) : State :=
  (s.eaTouch s.osz.width m 0).placeTouch s.osz.width (s.eaPlace m s.osz.width.bytes)

theorem boundTouch_only (h : s.paged = true) (m : MemRef) : s.onlyTouched (s.boundTouch m) :=
  have hlower := placeTouch_only h s.osz.width (s.eaPlace m 0)
  onlyTouched_trans hlower (placeTouch_only (onlyTouched_paged h hlower) _ _)

/-- BOUND compares the index with both bounds as signed numbers (43_control_transfer R502). -/
theorem execBound_eq (h : s.paged = true) (r : Num8) (m : MemRef) :
    exec (.bound r m) s = .next
      (if (s.regs.rn s.osz.width r).toInt < (s.eaVal s.osz.width m 0).toInt ∨
          (s.eaVal s.osz.width m s.osz.width.bytes).toInt < (s.regs.rn s.osz.width r).toInt then
        (s.boundTouch m).raise .br else s.boundTouch m) := by
  have hupper : (s.eaTouch s.osz.width m 0).placeVal s.osz.width (s.eaPlace m s.osz.width.bytes) =
      s.eaVal s.osz.width m s.osz.width.bytes := placeVal_of_onlyTouched h (placeTouch_only h _ _) _ _
  show execBound r m s = _
  simp only [execBound, hupper, Bool.or_eq_true, BitVec.slt_iff_toInt_lt]
  rfl

end Bound

/-- Settles O53: each records its row of the table of R645, and BOUND does so where the index is out of bounds. -/
theorem softwareInterruptsAndChecks : Obligations.SoftwareInterruptsAndChecks := by
  unfold Obligations.SoftwareInterruptsAndChecks
  intro v r m u s h w i lo hi
  have hself := onlyTouched_refl h
  have htouch := boundTouch_only h m
  have hbound := execBound_eq h r m
  refine ⟨⟨_, rfl, raised_of_onlyTouched hself (.sw v)⟩, ⟨_, rfl, raised_of_onlyTouched hself (.sw 3)⟩,
    fun hof => ⟨_, congrArg Host.Outcome.next (if_pos hof), raised_of_onlyTouched hself (.sw 4)⟩,
    fun hof => ⟨_, congrArg Host.Outcome.next (if_neg (Bool.eq_false_iff.1 hof)), rfl⟩, fun hlo hhi => ?_,
    fun hout => ?_, ⟨_, rfl, raised_of_onlyTouched hself .ud⟩⟩
  · rw [if_neg (not_or.2 ⟨Int.not_lt.2 hlo, Int.not_lt.2 hhi⟩)] at hbound
    exact ⟨_, hbound, onlyRegs_of_onlyTouched htouch⟩
  · rw [if_pos hout] at hbound
    exact ⟨_, hbound, raised_of_onlyTouched htouch .br⟩

end Sys2Proof.Machine

/-! PROOFS. String and port instructions (44_string_io R540 to R550, 20_memory R150 to R153): what one element of each
leaves, a repetition as that many elements in turn, and port accesses port by port. -/

namespace Sys2Proof.Machine

/-! ### Registers in different cells (10_state R31 to R34) -/

/-- The cell that a register of a width is a view of (10_state R31 to R33). -/
def cellOf (w : Width) (i : Num8) : Num8 :=
  match w with
  | .b8 => i.cell8
  | .b16 => i
  | .b32 => i

@[simp] theorem cellOf_size (z : Sz) (i : Num8) : cellOf z.width i = i := by cases z <;> rfl

@[simp] theorem cellOf_acc (w : Width) : cellOf w .n0 = .n0 := by cases w <;> rfl

section Cells

variable {b b' : Bank} {w w' : Width} {i j : Num8}

theorem Bank.ext_get (h : ∀ k, b.get k = b'.get k) : b = b' := by
  obtain ⟨⟩ := b
  obtain ⟨⟩ := b'
  exact Bank.mk.injEq .. ▸ ⟨h .n0, h .n1, h .n2, h .n3, h .n4, h .n5, h .n6, h .n7⟩

theorem Bank.set_comm (hij : i ≠ j) (x y : Word) : (b.set i x).set j y = (b.set j y).set i x := by
  apply Bank.ext_get
  intro k
  simp only [Bank.get_set]
  grind

/-- A cell after a write to a register that is a view of it (10_state R31 to R33). -/
def cellWith (w : Width) (i : Num8) (v : BitVec w.bits) (c : Word) : Word :=
  match w, v with
  | .b8, v => if i.high8 then c.extractLsb' 16 16 ++ v ++ c.extractLsb' 0 8 else c.extractLsb' 8 24 ++ v
  | .b16, v => c.extractLsb' 16 16 ++ v
  | .b32, v => v

theorem Bank.setRn_eq_set (v : BitVec w.bits) :
    b.setRn w i v = b.set (cellOf w i) (cellWith w i v (b.get (cellOf w i))) := by
  cases w <;> rfl

theorem Bank.setRn_comm (hij : cellOf w i ≠ cellOf w' j) (x : BitVec w.bits) (y : BitVec w'.bits) :
    (b.setRn w i x).setRn w' j y = (b.setRn w' j y).setRn w i x := by
  simp only [Bank.setRn_eq_set, Bank.get_set, hij, hij.symm, if_false, Bank.set_comm hij]

theorem Bank.rn_setRn_of_ne (hij : cellOf w i ≠ cellOf w' j) (v : BitVec w.bits) :
    (b.setRn w i v).rn w' j = b.rn w' j := by
  have hcell : (b.setRn w i v).get (cellOf w' j) = b.get (cellOf w' j) := by
    rw [Bank.setRn_eq_set, Bank.get_set, if_neg hij.symm]
  cases w' <;> simp only [Bank.rn, Bank.r8, Bank.r16, cellOf] at hcell ⊢ <;> rw [hcell]

/-- The accumulator written with what it holds (10_state R34). -/
theorem Bank.setRn_acc (b : Bank) (w : Width) : b.setRn w .n0 (b.rn w .n0) = b := by
  cases w with
  | b8 =>
    have hcell : b.r0.extractLsb' 8 24 ++ b.r0.extractLsb' 0 8 = b.r0 := by
      apply BitVec.eq_of_getLsbD_eq
      intro k hk
      rw [getLsbD_replaceLow8 _ hk]
      split <;> simp [*]
    exact congrArg (fun c => { b with r0 := c }) hcell
  | b16 => exact Bank.setRn_rn b .s16 .n0
  | b32 => rfl

end Cells

/-! ### Index registers (44_string_io R540) -/

/-- What `k` bytes add to an index register of size `z`, down where DF is set (44_string_io R540). -/
def stride (z : Sz) (down : Bool) (k : Nat) : BitVec z.width.bits :=
  if down then -BitVec.ofNat z.width.bits k else BitVec.ofNat z.width.bits k

theorem stride_add (z : Sz) (down : Bool) (j k : Nat) : stride z down j + stride z down k = stride z down (j + k) := by
  cases down
  · exact (BitVec.ofNat_add j k).symm
  · show -BitVec.ofNat _ j + -BitVec.ofNat _ k = -BitVec.ofNat _ (j + k)
    rw [BitVec.ofNat_add, BitVec.neg_add, BitVec.sub_eq_add_neg]

section Index

variable (s : State) (w : Width) (k : Nat) (i : Num8) (b : Bank)

theorem advanced_eq : s.advanced w k i b =
    b.setRn s.asz.width i (b.rn s.asz.width i + stride s.asz s.flags.df (k * w.bytes)) := by
  unfold State.advanced
  cases s.asz <;> cases s.flags.df <;> simp [stride, Sz.width, BitVec.sub_eq_add_neg]

theorem asReg_eq : s.asReg i = s.indexAt i := by
  unfold State.asReg State.indexAt
  cases s.asz with
  | s16 => rw [trunc_s16, ← r16_eq]; rfl
  | s32 => rfl

theorem indexAt_eq : s.indexAt i = (s.regs.rn s.asz.width i).setWidth 32 := by
  unfold State.indexAt
  cases s.asz with
  | s16 => rfl
  | s32 => exact (BitVec.setWidth_eq _).symm

theorem withAsReg_eq (v : Word) :
    s.withAsReg i v = s.regs.setRn s.asz.width i (v.setWidth s.asz.width.bits) := by
  unfold State.withAsReg
  cases s.asz with
  | s16 => rfl
  | s32 => exact congrArg (s.regs.set i) (BitVec.setWidth_eq v).symm

theorem setWidth_delta : (s.delta w).setWidth s.asz.width.bits = stride s.asz s.flags.df w.bytes := by
  unfold State.delta stride
  cases s.asz <;> cases s.flags.df <;> cases w <;> rfl

/-- The step of an index register after an element (44_string_io R540). -/
theorem stepIndex_eq : s.stepIndex w i = s.setRegs (s.advanced w 1 i s.regs) := by
  have hbits : s.asz.width.bits ≤ 32 := by cases s.asz <;> decide
  rw [State.stepIndex, withAsReg_eq, BitVec.setWidth_add _ _ hbits, setWidth_delta, State.asReg, setWidth_trunc_get,
    advanced_eq, one_mul]

/-- An index register moved by some bytes, as an offset (44_string_io R540). -/
theorem setWidth_add_stride : (s.regs.rn s.asz.width i + stride s.asz s.flags.df k).setWidth 32 =
    s.asz.trunc (if s.flags.df then s.indexAt i - BitVec.ofNat 32 k else s.indexAt i + BitVec.ofNat 32 k) := by
  rw [indexAt_eq]
  cases s.asz <;> cases s.flags.df <;> simp [trunc_s16, setWidth_add16, stride, Sz.width, BitVec.sub_eq_add_neg]

end Index

/-! ### The string operations -/

/-- The string operations, at each width one instruction (44_string_io R542 to R548). -/
inductive StringOp where
  | movs
  | cmps
  | scas
  | lods
  | stos
  | ins
  | outs

namespace StringOp

/-- One of three instructions, by width. -/
def ofWidth (x y z : Instr) : Width → Instr
  | .b8 => x
  | .b16 => y
  | .b32 => z

def instr : StringOp → Width → Instr
  | .movs => ofWidth .movsb .movsw .movsd
  | .cmps => ofWidth .cmpsb .cmpsw .cmpsd
  | .scas => ofWidth .scasb .scasw .scasd
  | .lods => ofWidth .lodsb .lodsw .lodsd
  | .stos => ofWidth .stosb .stosw .stosd
  | .ins => ofWidth .insb .insw .insd
  | .outs => ofWidth .outsb .outsw .outsd

/-- One element of the operation, in the model's terms (44_string_io R542 to R548). -/
def body : StringOp → Width → State → State
  | .movs => movsBody
  | .cmps => cmpsBody
  | .scas => scasBody
  | .lods => lodsBody
  | .stos => stosBody
  | .ins => insBody
  | .outs => outsBody

/-- CMPS and SCAS compare (44_string_io R541). -/
def compares : StringOp → Bool
  | .cmps | .scas => true
  | .movs | .lods | .stos | .ins | .outs => false

/-- INS and OUTS access ports (44_string_io R551). -/
def accessesPorts : StringOp → Bool
  | .ins | .outs => true
  | .movs | .cmps | .scas | .lods | .stos => false

/-- When a repetition ends before its count (44_string_io R541). -/
def stop (op : StringOp) : State → Bool := if op.compares then stopOnZf else neverStop

/-- The index registers that an element advances, the one advanced first at the end (44_string_io R540). -/
def indices : StringOp → List Num8
  | .movs | .cmps => [.n7, .n6]
  | .scas | .stos | .ins => [.n7]
  | .lods | .outs => [.n6]

/-- Index registers are neither the accumulator nor the counter, and each is advanced once. -/
theorem indices_nodup (op : StringOp) : op.indices.Nodup ∧ .n0 ∉ op.indices ∧ .n1 ∉ op.indices := by
  cases op <;> decide

/-- What holds for each width holds for the three instructions of an operation. -/
theorem forall_widths (op : StringOp) {P : Width × Instr → Prop} (h : ∀ w, P (w, op.instr w)) :
    ∀ c ∈ [(Width.b8, op.instr .b8), (.b16, op.instr .b16), (.b32, op.instr .b32)], P c := by
  simp [h]

/-- What holds for each operation of a list and each width holds for their instructions. -/
theorem forall_instrs (ops : List StringOp) {P : Instr → Prop} (h : ∀ op ∈ ops, ∀ w, P (op.instr w)) :
    ∀ i ∈ ops.flatMap fun op => [op.instr .b8, op.instr .b16, op.instr .b32], P i := by
  intro i hi
  obtain ⟨op, hop, hw⟩ := List.mem_flatMap.1 hi
  simp only [List.mem_cons, List.not_mem_nil, or_false] at hw
  rcases hw with rfl | rfl | rfl <;> exact h op hop _

end StringOp

/-- The I/O privilege: IN, OUT, INS and OUTS are allowed (44_string_io R551). -/
def State.mayDoIo (s : State) : Prop := s.pe = false ∨ s.cpl.toNat ≤ s.flags.iopl.toNat

theorem checkIopl_mayDoIo {s : State} (hio : s.mayDoIo) (k : State → State) : checkIopl s k = k s :=
  checkIopl_pass k (hio.imp_right BitVec.le_def.2)

/-- An operation that accesses no port needs no privilege (44_string_io R551). -/
theorem noPorts {s : State} {op : StringOp} (hop : op.accessesPorts = false) : op.accessesPorts = true → s.mayDoIo :=
  fun hport => absurd (hop.symm.trans hport) Bool.false_ne_true

/-- Every string instruction is its element, or the repetition of it (44_string_io R541). -/
theorem exec_stringInstr {s : State} {op : StringOp} (hio : op.accessesPorts = true → s.mayDoIo) (w : Width) :
    exec (op.instr w) s = .next (s.repeated op.stop (op.body w)) := by
  have hport (h : op.accessesPorts = true) (k : State → State) :
      Host.Outcome.next (checkIopl s k) = (.next (k s) : Out) := congrArg _ (checkIopl_mayDoIo (hio h) k)
  cases op with
  | ins => cases w <;> exact hport rfl _
  | outs => cases w <;> exact hport rfl _
  | movs => cases w <;> rfl
  | cmps => cases w <;> rfl
  | scas => cases w <;> rfl
  | lods => cases w <;> rfl
  | stos => cases w <;> rfl

/-! ### One element (44_string_io R542 to R548) -/

section Element

variable {s : State}

/-- The linear address of the source element (44_string_io R540). -/
def State.source (s : State) : Word := s.sourceSeg.base + s.indexAt .n6

/-- The linear address of the destination element (44_string_io R540). -/
def State.dest (s : State) : Word := s.segs.es.base + s.indexAt .n7

/-- A register file with index registers of the address size advanced by `k` elements, the last in the list first. -/
def State.stepped (s : State) (w : Width) (k : Nat) (is : List Num8) (b : Bank) : Bank := is.foldr (s.advanced w k) b

theorem lin_source (s : State) : s.lin s.dataSeg (s.asReg .n6) = s.source := by
  rw [State.lin, asReg_eq, ← sourceSeg_eq]
  rfl

theorem lin_dest (s : State) : s.lin .es (s.asReg .n7) = s.dest := by
  rw [State.lin, asReg_eq]
  rfl

theorem segVal_source (h : s.paged = true) (w : Width) :
    s.segVal w s.dataSeg (s.asReg .n6) = s.mem.val w s.source := by
  rw [segVal_paged (State.paged_io h), lin_source]

theorem segTouch_source (h : s.paged = true) (w : Width) :
    s.segTouch w s.dataSeg (s.asReg .n6) = s.setMem (s.mem.touchRead w s.source) := by
  rw [segTouch_paged (State.paged_io h), lin_source]

theorem segVal_dest (h : s.paged = true) (w : Width) : s.segVal w .es (s.asReg .n7) = s.mem.val w s.dest := by
  rw [segVal_paged (State.paged_io h), lin_dest]

theorem segTouch_dest (h : s.paged = true) (w : Width) :
    s.segTouch w .es (s.asReg .n7) = s.setMem (s.mem.touchRead w s.dest) := by
  rw [segTouch_paged (State.paged_io h), lin_dest]

theorem segStore_dest (h : s.paged = true) (w : Width) (v : BitVec w.bits) :
    s.segStore w .es (s.asReg .n7) v = s.setMem (s.mem.store w s.dest v) := by
  rw [segStore_paged (State.paged_io h), lin_dest]

theorem portTouch_paged (h : s.paged = true) (w : Width) (p : BitVec 16) : (s.portTouch w p).paged = true := h

theorem touchRead_paged (h : s.paged = true) (w : Width) (a : Word) :
    (s.setMem (s.mem.touchRead w a)).paged = true :=
  have hio : s.io = none := State.paged_io h
  State.paged_iff.2 ⟨hio, Memory.wf_touchRead (State.paged_wf h) w a⟩

/-- The port that INS and OUTS access (44_string_io R547, R548). -/
def State.dx (s : State) : BitVec 16 := s.regs.rn .b16 .n2

namespace StringOp

/-- The general registers before an element advances its index registers: LODS loads the accumulator. -/
def loaded (op : StringOp) (w : Width) (s : State) : Bank :=
  match op with
  | .lods => s.regs.setRn w .n0 (s.mem.val w s.source)
  | .movs | .cmps | .scas | .stos | .ins | .outs => s.regs

/-- EFLAGS after an element: CMPS and SCAS compare. -/
def flagsAfter (op : StringOp) (w : Width) (s : State) : Eflags :=
  match op with
  | .cmps => (opSub w.bits (s.mem.val w s.source) (s.mem.val w s.dest) s.flags s.draws).2
  | .scas => (opSub w.bits (s.regs.rn w .n0) (s.mem.val w s.dest) s.flags s.draws).2
  | .movs | .lods | .stos | .ins | .outs => s.flags

/-- The state after the port access of an element, if any; OUTS has read its source before. -/
def ported (op : StringOp) (w : Width) (s : State) : State :=
  match op with
  | .ins => s.portTouch w s.dx
  | .outs => (s.setMem (s.mem.touchRead w s.source)).portWrite w s.dx (s.mem.val w s.source)
  | .movs | .cmps | .scas | .lods | .stos => s

/-- Memory after an element: what it reads, then what it stores. -/
def memAfter (op : StringOp) (w : Width) (s : State) : Memory :=
  match op with
  | .movs => (s.mem.touchRead w s.source).store w s.dest (s.mem.val w s.source)
  | .cmps => (s.mem.touchRead w s.source).touchRead w s.dest
  | .scas => s.mem.touchRead w s.dest
  | .lods => s.mem.touchRead w s.source
  | .stos => s.mem.store w s.dest (s.regs.rn w .n0)
  | .ins => (s.portTouch w s.dx).mem.store w s.dest (s.portVal w s.dx)
  | .outs => (StringOp.outs.ported w s).mem

/-- The state after an element (44_string_io R542 to R548). -/
def after (op : StringOp) (w : Width) (s : State) : State := { s with
  regs := s.stepped w 1 op.indices (op.loaded w s)
  flags := op.flagsAfter w s
  mem := op.memAfter w s
  ports := (op.ported w s).ports
  draws := (op.ported w s).draws }

end StringOp

/-- In the paged memory an element comes to its reads, its store, its comparison and its steps of index registers. -/
theorem body_eq_after (h : s.paged = true) (op : StringOp) (w : Width) : op.body w s = op.after w s := by
  have ht := touchRead_paged h w s.source
  cases op with
  | movs =>
    show movsBody w s = _
    rw [movsBody, segVal_source h, segTouch_source h, segStore_dest ht, stepIndex_eq, stepIndex_eq]
    rfl
  | cmps =>
    show cmpsBody w s = _
    rw [cmpsBody, segVal_source h, segTouch_source h, segVal_dest ht, segTouch_dest ht, State.setMem_mem,
      Memory.val_touchRead (State.paged_wf h), stepIndex_eq, stepIndex_eq]
    rfl
  | scas =>
    show scasBody w s = _
    rw [scasBody, segVal_dest h, segTouch_dest h, stepIndex_eq]
    rfl
  | lods =>
    show lodsBody w s = _
    rw [lodsBody, segVal_source h, segTouch_source h, stepIndex_eq]
    rfl
  | stos =>
    show stosBody w s = _
    rw [stosBody, segStore_dest h, stepIndex_eq]
    rfl
  | ins =>
    have hstore := segStore_dest (portTouch_paged h w s.dx) w (s.portVal w s.dx)
    exact (congrArg (State.stepIndex w .n7) hstore).trans (stepIndex_eq _ w .n7)
  | outs =>
    show outsBody w s = _
    rw [outsBody, segVal_source h, segTouch_source h, stepIndex_eq]
    rfl

end Element

/-! ### What every element leaves -/

theorem Eflags.sameControl_refl (f : Eflags) : f.sameControl f := ⟨rfl, rfl, rfl, rfl, rfl⟩

theorem Eflags.sameControl_trans {f g e : Eflags} (h : f.sameControl g) (h' : g.sameControl e) : f.sameControl e := by
  obtain ⟨htf, hifl, hdf, hiopl, hnt⟩ := h
  obtain ⟨htf', hifl', hdf', hiopl', hnt'⟩ := h'
  exact ⟨htf'.trans htf, hifl'.trans hifl, hdf'.trans hdf, hiopl'.trans hiopl, hnt'.trans hnt⟩

/-- The flags of a comparison are those of the same comparison from other arithmetic flags (40_alu_primitives R256). -/
theorem subTable_of_sameControl {n : Nat} {d v r : BitVec n} {c : Bool} {f g f' : Eflags} (h : f.sameControl g)
    (ht : subTable d v c r g f') : subTable d v c r f f' := by
  obtain ⟨hr, hcf, hovf, haf, hres, hctl⟩ := ht
  exact ⟨hr, hcf, hovf, haf, hres, Eflags.sameControl_trans h hctl⟩

section Around

variable {s t u : State}

/-- Everything but general registers, arithmetic flags, memory and ports is unchanged, and the memory left is in
canonical form. -/
structure State.around (s t : State) : Prop where
  system : s.sameSystem t
  intr : t.intr = s.intr
  segs : t.segs = s.segs
  eip : t.eip = s.eip
  control : s.flags.sameControl t.flags
  wf : t.mem.wf = true

namespace State.around

theorem refl (h : s.paged = true) : s.around s :=
  ⟨⟨rfl, rfl, rfl, rfl, rfl⟩, rfl, rfl, rfl, Eflags.sameControl_refl _, State.paged_wf h⟩

theorem trans (ht : s.around t) (hu : t.around u) : s.around u := by
  obtain ⟨⟨hsys, hpfx, hctl, hcfg, hio⟩, hintr, hsegs, heip, hflags, -⟩ := ht
  obtain ⟨⟨hsys', hpfx', hctl', hcfg', hio'⟩, hintr', hsegs', heip', hflags', hwf⟩ := hu
  exact ⟨⟨hsys'.trans hsys, hpfx'.trans hpfx, hctl'.trans hctl, hcfg'.trans hcfg, hio'.trans hio⟩, hintr'.trans hintr,
    hsegs'.trans hsegs, heip'.trans heip, Eflags.sameControl_trans hflags hflags', hwf⟩

theorem setRegs (ht : s.around t) (b : Bank) : s.around (t.setRegs b) :=
  ⟨ht.system, ht.intr, ht.segs, ht.eip, ht.control, ht.wf⟩

theorem io (ht : s.around t) : t.io = s.io := ht.system.2.2.2.2

theorem pfx (ht : s.around t) : t.pfx = s.pfx := ht.system.2.1

theorem paged (h : s.paged = true) (ht : s.around t) : t.paged = true :=
  State.paged_iff.2 ⟨ht.io.trans (State.paged_io h), ht.wf⟩

theorem asz (ht : s.around t) : t.asz = s.asz := by
  simp only [State.asz, State.defSz, ht.pfx, ht.segs]

theorem df (ht : s.around t) : t.flags.df = s.flags.df := ht.control.2.2.1

theorem sourceSeg (ht : s.around t) : t.sourceSeg = s.sourceSeg := by
  simp only [State.sourceSeg, ht.pfx, ht.segs]

theorem advanced (ht : s.around t) : t.advanced = s.advanced := by
  funext w k i b
  simp only [State.advanced, ht.asz, ht.df]

theorem stepped (ht : s.around t) : t.stepped = s.stepped := by
  funext w k is b
  rw [State.stepped, State.stepped, ht.advanced]

theorem mayDoIo (ht : s.around t) (hio : s.mayDoIo) : t.mayDoIo := by
  obtain ⟨-, -, -, hiopl, -⟩ := ht.control
  obtain ⟨hsys, -⟩ := ht.system
  have hpe : t.pe = s.pe := by rw [State.pe, State.pe, hsys]
  have hcpl : t.cpl = s.cpl := by rw [State.cpl, State.cpl, hpe, ht.segs]
  rwa [State.mayDoIo, hpe, hcpl, hiopl]

theorem sameButData (ht : s.around t) (hports : t.ports = s.ports) : s.sameButData t :=
  ⟨⟨⟨ht.system, ht.intr, hports⟩, ht.segs⟩, ht.eip⟩

end State.around

end Around

section After

variable {s : State} (h : s.paged = true) (op : StringOp) (w : Width)

theorem flagsAfter_sameControl (s : State) : s.flags.sameControl (op.flagsAfter w s) := by
  have hcmp (x y : BitVec w.bits) : s.flags.sameControl (opSub w.bits x y s.flags s.draws).2 :=
    (subTable_opSub s.flags s.draws (four_le_bits w) x y).2.2.2.2.2
  cases op with
  | cmps => exact hcmp _ _
  | scas => exact hcmp _ _
  | movs | lods | stos | ins | outs => exact Eflags.sameControl_refl _

include h in
theorem memAfter_wf : (op.memAfter w s).wf = true := by
  have hwf := State.paged_wf h
  have hport : (s.portTouch w s.dx).mem.wf = true := hwf
  have hread (a : Word) := Memory.wf_touchRead hwf w a
  cases op with
  | movs => exact Memory.wf_store (hread _) w _ _
  | cmps => exact Memory.wf_touchRead (hread _) w _
  | scas => exact hread _
  | lods => exact hread _
  | stos => exact Memory.wf_store hwf w _ _
  | ins => exact Memory.wf_store hport w _ _
  | outs => exact hread _

include h in
theorem after_around : s.around (op.after w s) :=
  ⟨⟨rfl, rfl, rfl, rfl, rfl⟩, rfl, rfl, rfl, flagsAfter_sameControl op w s, memAfter_wf h op w⟩

/-- An element does not look at whether it is repeated (44_string_io R541). -/
theorem after_rep (k : Option RepKind) :
    op.after w { s with pfx := { s.pfx with rep := k } } =
      { op.after w s with pfx := { s.pfx with rep := k } } := by
  cases op <;> rfl

end After

/-- A string instruction that is not repeated is one element (44_string_io R541). -/
theorem completes_element {s : State} (h : s.paged = true) (hrep : s.pfx.rep = none) {op : StringOp}
    (hio : op.accessesPorts = true → s.mayDoIo) {w : Width} {P : State → Prop} (hP : P (op.after w s)) :
    completes (op.instr w) s P := by
  refine ⟨_, ?_, hP⟩
  rw [exec_stringInstr hio, State.repeated, hrep, body_eq_after h]

/-- Settles O54: each element as its reads, its store and its advanced index registers. -/
theorem stringElements : Obligations.StringElements := by
  unfold Obligations.StringElements
  intro s h hrep src dst
  have hwf := State.paged_wf h
  have hread (w : Width) (a : Word) := Memory.kept_touchRead hwf w a
  have hsrc (w : Width) := Memory.wf_touchRead hwf w s.source
  have hcmp {w : Width} (x y : BitVec w.bits) := subTable_opSub s.flags s.draws (four_le_bits w) x y
  have hone (op : StringOp) (w : Width) (hop : op.accessesPorts = false) {P : State → Prop} (hP : P (op.after w s)) :=
    completes_element h hrep (noPorts hop) hP
  have hsame (op : StringOp) (w : Width) := (after_around h op w).sameButData
  refine ⟨StringOp.forall_widths .movs fun w => hone .movs w rfl ?_,
    StringOp.forall_widths .cmps fun w => hone .cmps w rfl ?_,
    StringOp.forall_widths .scas fun w => hone .scas w rfl ?_,
    StringOp.forall_widths .lods fun w => hone .lods w rfl ?_,
    StringOp.forall_widths .stos fun w => hone .stos w rfl ?_⟩
  · exact ⟨hsame .movs w rfl, rfl, rfl, _, hread w s.source, Memory.stored_store (hsrc w) w _ _⟩
  · exact ⟨hsame .cmps w rfl, Memory.kept_trans (hread w _) (Memory.kept_touchRead (hsrc w) w _), rfl, _, hcmp _ _⟩
  · exact ⟨hsame .scas w rfl, hread w _, rfl, _, hcmp _ _⟩
  · exact ⟨⟨hsame .lods w rfl, rfl, hread w _⟩, rfl⟩
  · exact ⟨hsame .stos w rfl, rfl, rfl, Memory.stored_store hwf w _ _⟩

/-! ### Ports (20_memory R152, R153) -/

section Ports

variable {q : Ports} {p : BitVec 16}

@[simp] theorem length_portSpan (n : Nat) (p : BitVec 16) : (portSpan n p).length = n := by
  induction n generalizing p with
  | zero => rfl
  | succ n ih => rw [portSpan, List.length_cons, ih]

theorem nodup_portSpan (w : Width) (p : BitVec 16) : (portSpan w.bytes p).Nodup := by
  have hone (x : BitVec 16) : x ≠ x + 1#16 := by bv_omega
  have htwo (x : BitVec 16) : x ≠ x + 1#16 + 1#16 := by bv_omega
  have hthree (x : BitVec 16) : x ≠ x + 1#16 + 1#16 + 1#16 := by bv_omega
  cases w <;> simp [portSpan, hone, htwo, hthree]

/-- One access of a port counted (20_memory R152, R153). -/
theorem get_counted {bound lo : Nat} {l : List (Nat × Nat)} (hwf : Sparse.wfFrom 0 bound lo l = true)
    (a p : BitVec 16) :
    Sparse.get 0 (Sparse.set 0 l a.toNat (Sparse.get 0 l a.toNat + 1)) p.toNat =
      Sparse.get 0 l p.toNat + (if p = a then 1 else 0) := by
  rw [Sparse.get_set hwf]
  by_cases hp : p = a
  · simp [hp]
  · simp [hp, BitVec.toNat_inj]

/-- Reads change the read counters alone (20_memory R152). -/
theorem Ports.exists_countReads_eq (ps : List (BitVec 16)) : ∃ rd, q.countReads ps = { q with rd := rd } := by
  induction ps generalizing q with
  | nil => exact ⟨q.rd, rfl⟩
  | cons a ps ih =>
    rw [Ports.countReads]
    split
    · exact ih (q := q.countRead a)
    · exact ih

/-- Each port that may be read is counted once (20_memory R152). -/
theorem Ports.get_countReads {ps : List (BitVec 16)} (hwf : q.wf = true) (hps : ps.Nodup) :
    Sparse.get 0 (q.countReads ps).rd p.toNat =
      Sparse.get 0 q.rd p.toNat + (if p ∈ ps ∧ q.canRead p = true then 1 else 0) := by
  induction ps generalizing q with
  | nil => simp [Ports.countReads]
  | cons a ps ih =>
    obtain ⟨ha, hps⟩ := List.nodup_cons.1 hps
    rw [Ports.countReads]
    split
    · next hr =>
      have hcan : (q.countRead a).canRead p = q.canRead p := rfl
      rw [ih (Ports.countRead_wf hwf) hps, hcan, Ports.countRead, get_counted (Ports.wf_iff.1 hwf).2.1]
      grind
    · next hr =>
      rw [ih hwf hps]
      grind

/-- A write of every port is counted once in each (20_memory R153). -/
theorem Ports.get_countWrites {ps : List (BitVec 16)} (hwf : q.wf = true) (hps : ps.Nodup) :
    Sparse.get 0 (q.countWrites ps).wr p.toNat = Sparse.get 0 q.wr p.toNat + (if p ∈ ps then 1 else 0) := by
  induction ps generalizing q with
  | nil => simp [Ports.countWrites]
  | cons a ps ih =>
    obtain ⟨ha, hps⟩ := List.nodup_cons.1 hps
    rw [Ports.countWrites, ih (Ports.countWrite_wf hwf) hps, Ports.countWrite, get_counted (Ports.wf_iff.1 hwf).2.2]
    grind

theorem Ports.exists_countWrites_eq (ps : List (BitVec 16)) : ∃ wr, q.countWrites ps = { q with wr := wr } := by
  induction ps generalizing q with
  | nil => exact ⟨q.wr, rfl⟩
  | cons a ps ih => exact ih (q := q.countWrite a)

/-- The byte path of a write counts each port that may be written (20_memory R153). -/
theorem Ports.get_writeBytes {l : List (BitVec 16 × Byte)} (hwf : q.wf = true) (hl : (l.map Prod.fst).Nodup) :
    Sparse.get 0 (q.writeBytes l).wr p.toNat =
      Sparse.get 0 q.wr p.toNat + (if p ∈ l.map Prod.fst ∧ q.canWrite p = true then 1 else 0) := by
  induction l generalizing q with
  | nil => simp [Ports.writeBytes]
  | cons c l ih =>
    obtain ⟨a, v⟩ := c
    obtain ⟨ha, hl⟩ := List.nodup_cons.1 hl
    rw [Ports.writeBytes, List.map_cons]
    split
    · next hw =>
      have hcan (e : PortEvent) : ((q.emit e).countWrite a).canWrite p = q.canWrite p := rfl
      rw [ih (Ports.countWrite_wf (Ports.emit_wf hwf)) hl, hcan, Ports.countWrite, get_counted]
      · simp only [Ports.emit]
        grind
      · exact (Ports.wf_iff.1 hwf).2.2
    · next hw =>
      rw [ih hwf hl]
      grind

/-- The byte path of a write emits one event for each byte whose port may be written (20_memory R153). -/
theorem Ports.exists_writeBytes_eq (l : List (BitVec 16 × Byte)) : ∃ wr, q.writeBytes l = { q with
    wr := wr
    out := q.out ++ l.filterMap fun c => if q.canWrite c.1 then some ⟨c.1, 1, c.2.setWidth 32⟩ else none } := by
  induction l generalizing q with
  | nil => exact ⟨q.wr, by simp [Ports.writeBytes]⟩
  | cons c l ih =>
    obtain ⟨a, v⟩ := c
    rw [Ports.writeBytes]
    split
    · next hw =>
      obtain ⟨wr, hwr⟩ := ih (q := (q.emit ⟨a, 1, v.setWidth 32⟩).countWrite a)
      refine ⟨wr, hwr.trans ?_⟩
      simp only [List.filterMap_cons, hw, if_true, Ports.countWrite, Ports.emit, List.append_assoc]
      rfl
    · next hw =>
      obtain ⟨wr, hwr⟩ := ih (q := q)
      exact ⟨wr, by rw [hwr]; simp [hw]⟩

end Ports

section PortAccess

variable {s : State} (w : Width) (p : BitVec 16)

theorem not_all_eq_any_not {α : Type} (l : List α) (f : α → Bool) : (!l.all f) = l.any fun a => !f a := by
  rw [List.all_eq_not_any_not, Bool.not_not]

theorem leBytes_append16 (x y : Byte) : leBytes .b16 (y ++ x) = [x, y] :=
  congrArg₂ (fun a b => [a, b]) BitVec.extractLsb'_append_eq_right BitVec.extractLsb'_append_eq_left

theorem leBytes_append32 (x y z u : Byte) : leBytes .b32 (u ++ z ++ y ++ x) = [x, y, z, u] := by
  have hx : (u ++ z ++ y ++ x).extractLsb' 0 8 = x := BitVec.extractLsb'_append_eq_right
  have hrest {k : Nat} (hk : 8 ≤ k) : (u ++ z ++ y ++ x).extractLsb' k 8 = (u ++ z ++ y).extractLsb' (k - 8) 8 :=
    BitVec.extractLsb'_append_eq_of_le hk
  have htop {k : Nat} (hk : 8 ≤ k) : (u ++ z ++ y).extractLsb' k 8 = (u ++ z).extractLsb' (k - 8) 8 :=
    BitVec.extractLsb'_append_eq_of_le hk
  have hy := (hrest (k := 8) (by decide)).trans BitVec.extractLsb'_append_eq_right
  have hz := ((hrest (k := 16) (by decide)).trans (htop (by decide))).trans BitVec.extractLsb'_append_eq_right
  have hu := ((hrest (k := 24) (by decide)).trans (htop (by decide))).trans BitVec.extractLsb'_append_eq_left
  show [0, 8, 16, 24].map (fun k => (u ++ z ++ y ++ x).extractLsb' k 8) = _
  simp only [List.map_cons, List.map_nil, hx, hy, hz, hu]

/-- Each byte of the byte path is that of its own port (20_memory R152). -/
theorem bytesVal_byteVal (q : Ports) (d : Nat) : ∀ c ∈ (portSpan w.bytes p).zip (leBytes w (q.bytesVal d w p)),
    ∃ e, c.2 = q.byteVal e c.1 := by
  have hnil := List.forall_mem_nil fun c : BitVec 16 × Byte => ∃ e, c.2 = q.byteVal e c.1
  cases w with
  | b8 =>
    simp only [portSpan, leBytes, Ports.bytesVal, List.zip_cons_cons, List.zip_nil_left, List.forall_mem_cons]
    exact ⟨⟨_, rfl⟩, hnil⟩
  | b16 =>
    rw [Ports.bytesVal, leBytes_append16]
    simp only [portSpan, List.zip_cons_cons, List.zip_nil_left, List.forall_mem_cons]
    exact ⟨⟨_, rfl⟩, ⟨_, rfl⟩, hnil⟩
  | b32 =>
    rw [Ports.bytesVal, leBytes_append32]
    simp only [portSpan, BitVec.add_assoc, List.zip_cons_cons, List.zip_nil_left, List.forall_mem_cons]
    exact ⟨⟨_, rfl⟩, ⟨_, rfl⟩, ⟨_, rfl⟩, ⟨_, rfl⟩, hnil⟩

/-- A refused port reads 0xFF (20_memory R152). -/
theorem portVal_refused : ∀ c ∈ (portSpan w.bytes p).zip (leBytes w (s.portVal w p)),
    s.ports.canRead c.1 = false → c.2 = 0xFF := by
  intro c hc hno
  unfold State.portVal at hc
  split at hc
  · next hall =>
    have hport := List.all_eq_true.1 hall c.1 (List.of_mem_zip hc).1
    simp [hno] at hport
  · obtain ⟨e, he⟩ := bytesVal_byteVal w p s.ports s.draws c hc
    rw [he, Ports.byteVal, hno]
    rfl

theorem portRead_portTouch (hwf : s.ports.wf = true) : s.portRead (s.portTouch w p) w p (s.portVal w p) := by
  obtain ⟨rd, hrd⟩ := s.ports.exists_countReads_eq (portSpan w.bytes p)
  refine ⟨portVal_refused w p, congrArg (s.mem.invalid || ·) (not_all_eq_any_not _ _),
    fun a => Ports.get_countReads hwf (nodup_portSpan w p), ?_⟩
  rw [State.portTouch_ports, hrd]
  exact ⟨rfl, rfl, rfl⟩

/-- A port write, of all its ports or byte by byte (20_memory R153). -/
theorem portWrite_ports (v : BitVec w.bits) : (s.portWrite w p v).ports =
    if (portSpan w.bytes p).all s.ports.canWrite
    then (s.ports.emit ⟨p, w.bytes, v.setWidth 32⟩).countWrites (portSpan w.bytes p)
    else s.ports.writeBytes ((portSpan w.bytes p).zip (leBytes w v)) := rfl

theorem portWrite_rd (v : BitVec w.bits) : (s.portWrite w p v).ports.rd = s.ports.rd := by
  rw [portWrite_ports]
  split
  · obtain ⟨wr, hwr⟩ := (s.ports.emit ⟨p, w.bytes, v.setWidth 32⟩).exists_countWrites_eq (portSpan w.bytes p)
    rw [hwr]
    rfl
  · obtain ⟨wr, hwr⟩ := s.ports.exists_writeBytes_eq ((portSpan w.bytes p).zip (leBytes w v))
    rw [hwr]

theorem portWrote_portWrite (hwf : s.ports.wf = true) (v : BitVec w.bits) : s.portWrote (s.portWrite w p v) w p v := by
  have hfst : ((portSpan w.bytes p).zip (leBytes w v)).map Prod.fst = portSpan w.bytes p :=
    List.map_fst_zip (by simp)
  have hinvalid : (s.portWrite w p v).mem.invalid =
      (s.mem.invalid || (portSpan w.bytes p).any fun a => !s.ports.canWrite a) :=
    congrArg (s.mem.invalid || ·) (not_all_eq_any_not _ _)
  suffices hout : _ ∧ _ from ⟨hout.1, hinvalid, hout.2, portWrite_rd w p v, portWrite_perm s w p v⟩
  rw [portWrite_ports]
  by_cases hall : (portSpan w.bytes p).all s.ports.canWrite = true
  · obtain ⟨wr, hwr⟩ := (s.ports.emit ⟨p, w.bytes, v.setWidth 32⟩).exists_countWrites_eq (portSpan w.bytes p)
    rw [if_pos hall, if_pos hall]
    refine ⟨by rw [hwr]; rfl, fun a => ?_⟩
    have hcan : a ∈ portSpan w.bytes p → s.ports.canWrite a = true := List.all_eq_true.1 hall a
    simp only [Ports.get_countWrites (Ports.emit_wf hwf) (nodup_portSpan w p), and_iff_left_of_imp hcan]
    rfl
  · obtain ⟨wr, hwr⟩ := s.ports.exists_writeBytes_eq ((portSpan w.bytes p).zip (leBytes w v))
    rw [if_neg hall, if_neg hall]
    refine ⟨by rw [hwr], fun a => ?_⟩
    rw [Ports.get_writeBytes hwf (by rw [hfst]; exact nodup_portSpan w p), hfst]

end PortAccess

section InOut

variable {s : State} (hio : s.mayDoIo) (w : OpW) (a : PortArg)
include hio

/-- IN where it is allowed (44_string_io R549). -/
theorem execInp_eq : exec (.inp w a) s = .next
    ((s.portTouch (w.width s.osz) (s.portNum a)).setReg (w.width s.osz) .n0
      (s.portVal (w.width s.osz) (s.portNum a))) :=
  congrArg Host.Outcome.next (checkIopl_mayDoIo hio _)

/-- OUT where it is allowed (44_string_io R550). -/
theorem execOutp_eq : exec (.outp w a) s = .next
    (s.portWrite (w.width s.osz) (s.portNum a) (s.regs.rn (w.width s.osz) .n0)) :=
  congrArg Host.Outcome.next (checkIopl_mayDoIo hio _)

end InOut

/-- Settles O56: the ports of each access one by one, and where INS and OUTS find and leave their element. -/
theorem portInstructions : Obligations.PortInstructions := by
  unfold Obligations.PortInstructions
  intro w a s h hwf hio n p dx rest
  have hmem := State.paged_wf h
  have hnum : s.portNum a = p := by cases a <;> rfl
  have hone (op : StringOp) (w : Width) (hrep : s.pfx.rep = none) {P : State → Prop} (hP : P (op.after w s)) :=
    completes_element h hrep (fun _ => hio) hP
  have hrest : ∀ t : State, s.around t → t.flags = s.flags → rest t := fun t ht hf =>
    ⟨ht.system, ht.intr, ht.segs, ht.eip, hf⟩
  refine ⟨⟨_, execInp_eq hio w a, ?_⟩, ⟨_, execOutp_eq hio w a, ?_⟩,
    fun hrep => StringOp.forall_widths .ins fun w => hone .ins w hrep ?_,
    fun hrep => StringOp.forall_widths .outs fun w => hone .outs w hrep ?_⟩
  · rw [hnum]
    exact ⟨s.portVal n p, ⟨⟨rfl, rfl, rfl, rfl, rfl⟩, rfl, rfl, rfl, rfl⟩, portRead_portTouch n p hwf,
      Memory.kept_refl _, rfl⟩
  · rw [hnum]
    exact ⟨⟨⟨rfl, rfl, rfl, rfl, rfl⟩, rfl, rfl, rfl, rfl⟩, portWrote_portWrite n p hwf _, Memory.kept_refl _, rfl⟩
  · exact ⟨s.portVal w dx, s.portTouch w dx, hrest _ (after_around h .ins w) rfl, portRead_portTouch w dx hwf,
      Memory.kept_refl _, rfl, Memory.stored_store (m := (s.portTouch w dx).mem) hmem w _ _, rfl⟩
  · have hread := Memory.kept_touchRead hmem w s.source
    exact ⟨s.setMem (s.mem.touchRead w s.source), hrest _ (after_around h .outs w) rfl, rfl, hread, hread,
      portWrote_portWrite (s := s.setMem (s.mem.touchRead w s.source)) w dx hwf _, rfl⟩

/-! ### Index registers after several elements -/

section Stepped

variable {s : State} {w w' : Width} {k n : Nat} {i j : Num8} {is : List Num8} {b : Bank}

theorem advanced_setRn (hij : i ≠ cellOf w' j) (v : BitVec w'.bits) :
    s.advanced w k i (b.setRn w' j v) = (s.advanced w k i b).setRn w' j v := by
  have hcell : cellOf w' j ≠ cellOf s.asz.width i := by rw [cellOf_size]; exact hij.symm
  rw [advanced_eq, advanced_eq, Bank.rn_setRn_of_ne hcell, Bank.setRn_comm hcell]

theorem advanced_advanced : s.advanced w 1 i (s.advanced w n i b) = s.advanced w (n + 1) i b := by
  rw [advanced_eq, advanced_eq, advanced_eq, Bank.rn_setRn, Bank.setRn_setRn, BitVec.add_assoc, stride_add, Nat.add_mul]

theorem stepped_setRn (hj : cellOf w' j ∉ is) (v : BitVec w'.bits) :
    s.stepped w k is (b.setRn w' j v) = (s.stepped w k is b).setRn w' j v := by
  induction is with
  | nil => rfl
  | cons i is ih =>
    obtain ⟨hi, his⟩ := not_or.1 (List.mem_cons.not.1 hj)
    exact (congrArg (s.advanced w k i) (ih his)).trans (advanced_setRn (Ne.symm hi) v)

theorem rn_stepped_of_notMem (hj : cellOf w' j ∉ is) : (s.stepped w k is b).rn w' j = b.rn w' j := by
  induction is with
  | nil => rfl
  | cons i is ih =>
    obtain ⟨hi, his⟩ := not_or.1 (List.mem_cons.not.1 hj)
    have hcell : cellOf s.asz.width i ≠ cellOf w' j := by rw [cellOf_size]; exact Ne.symm hi
    rw [State.stepped, List.foldr_cons, advanced_eq, Bank.rn_setRn_of_ne hcell]
    exact ih his

theorem advanced_stepped (hi : i ∉ is) :
    s.stepped w k is (s.advanced w n i b) = s.advanced w n i (s.stepped w k is b) := by
  have hi' : cellOf s.asz.width i ∉ is := by rwa [cellOf_size]
  rw [advanced_eq, advanced_eq, stepped_setRn hi', rn_stepped_of_notMem hi']

theorem stepped_zero : s.stepped w 0 is b = b := by
  induction is with
  | nil => rfl
  | cons i is ih =>
    have hstride : stride s.asz s.flags.df (0 * w.bytes) = 0#_ := by
      rw [Nat.zero_mul]
      cases s.flags.df <;> simp [stride]
    rw [State.stepped, List.foldr_cons]
    refine (congrArg (s.advanced w 0 i) ih).trans ?_
    rw [advanced_eq, hstride, BitVec.add_zero, Bank.setRn_rn]

/-- One more element (44_string_io R541). -/
theorem stepped_succ (his : is.Nodup) : s.stepped w 1 is (s.stepped w n is b) = s.stepped w (n + 1) is b := by
  induction is with
  | nil => rfl
  | cons i is ih =>
    obtain ⟨hi, his⟩ := List.nodup_cons.1 his
    calc s.advanced w 1 i (s.stepped w 1 is (s.advanced w n i (s.stepped w n is b)))
        = s.advanced w 1 i (s.advanced w n i (s.stepped w 1 is (s.stepped w n is b))) := by rw [advanced_stepped hi]
      _ = s.advanced w (n + 1) i (s.stepped w (n + 1) is b) := by rw [advanced_advanced, ih his]

theorem rn_stepped (his : is.Nodup) (hi : i ∈ is) : (s.stepped w k is b).rn s.asz.width i =
    b.rn s.asz.width i + stride s.asz s.flags.df (k * w.bytes) := by
  induction is with
  | nil => simp at hi
  | cons j is ih =>
    obtain ⟨hj, his⟩ := List.nodup_cons.1 his
    rw [State.stepped, List.foldr_cons, advanced_eq]
    by_cases hij : i = j
    · subst hij
      rw [Bank.rn_setRn, ← State.stepped, rn_stepped_of_notMem (by rwa [cellOf_size])]
    · rw [Bank.rn_setRn_of_ne (by simpa using Ne.symm hij)]
      exact ih his ((List.mem_cons.1 hi).resolve_left hij)

end Stepped

/-! ### The counter (44_string_io R541) -/

section Counter

variable {s u : State} {n c : Nat} {b : Bank}

/-- CX or ECX, by the address size. -/
def State.count (s : State) : Nat := (s.indexAt .n1).toNat

/-- A register file with the counter of the address size at a number. -/
def State.counter (s : State) (n : Nat) (b : Bank) : Bank :=
  b.setRn s.asz.width .n1 (BitVec.ofNat s.asz.width.bits n)

/-- The counter after an element (44_string_io R541). -/
def State.countDown (s : State) : State :=
  s.setRegs (s.regs.setRn s.asz.width .n1 (s.regs.rn s.asz.width .n1 - BitVec.ofNat s.asz.width.bits 1))

theorem count_eq (s : State) : s.count = (s.regs.rn s.asz.width .n1).toNat := by
  have hbits : s.asz.width.bits ≤ 32 := by cases s.asz <;> decide
  rw [State.count, indexAt_eq, BitVec.toNat_setWidth_of_le hbits]

theorem counter_count (s : State) : s.counter s.count s.regs = s.regs := by
  rw [State.counter, count_eq, BitVec.ofNat_toNat, BitVec.setWidth_eq, Bank.setRn_rn]

theorem count_of_counter (hasz : u.asz = s.asz) (hregs : u.regs = s.counter c b) (hc : c ≤ s.count) : u.count = c := by
  have hlt : c < 2 ^ s.asz.width.bits := lt_of_le_of_lt hc (count_eq s ▸ BitVec.isLt _)
  rw [count_eq, hregs, hasz, State.counter, Bank.rn_setRn, BitVec.toNat_ofNat, Nat.mod_eq_of_lt hlt]

theorem countDown_regs (hasz : u.asz = s.asz) (hregs : u.regs = s.counter c b) (hc : c ≠ 0) :
    u.countDown.regs = s.counter (c - 1) b := by
  have hsub : BitVec.ofNat s.asz.width.bits c - BitVec.ofNat s.asz.width.bits 1 =
      BitVec.ofNat s.asz.width.bits (c - 1) := by
    obtain ⟨m, rfl⟩ := Nat.exists_eq_succ_of_ne_zero hc
    rw [BitVec.sub_eq_iff_eq_add, ← BitVec.ofNat_add]
    rfl
  rw [State.countDown, hregs, hasz, State.setRegs_regs, State.counter, Bank.rn_setRn, Bank.setRn_setRn, hsub]
  rfl

end Counter

/-! ### The repetition (44_string_io R541) -/

section Repeat

variable {s : State} {stop : State → Bool} {body : State → State}

theorem repLoop_succ (h : s.count ≠ 0) (n : Nat) : repLoop stop body (n + 1) s =
    if stop (body s).countDown then (body s).countDown else repLoop stop body n (body s).countDown := by
  have hzero : s.asReg .n1 ≠ 0 := by
    rw [asReg_eq]
    exact fun h0 => h (congrArg BitVec.toNat h0)
  rw [repLoop, if_neg hzero]
  simp only [withAsReg_sub_one]
  rfl

/-- A repetition runs one element, counts down and, unless it is to stop, goes on. -/
theorem repLoop_runs {P : Nat → State → Prop} {cnt : Nat} (hcount : ∀ n u, P n u → u.count = cnt - n)
    (hturn : ∀ n u, n < cnt → P n u → (n ≠ 0 → stop u = false) → P (n + 1) (body u).countDown) (fuel : Nat) :
    ∀ n s, n + fuel = cnt → P n s → (n ≠ 0 → stop s = false) →
      ∃ m ≤ cnt, P m (repLoop stop body fuel s) ∧ (m ≠ cnt → m ≠ 0 ∧ stop (repLoop stop body fuel s) = true) := by
  induction fuel with
  | zero => exact fun n s hn hP _ => ⟨n, hn.le, hP, fun hne => absurd hn hne⟩
  | succ fuel ih =>
    intro n s hn hP hgo
    have hnext := hturn n s (by omega) hP hgo
    rw [repLoop_succ (by rw [hcount n s hP]; omega)]
    split
    · next hstop => exact ⟨n + 1, by omega, hnext, fun _ => ⟨n.succ_ne_zero, hstop⟩⟩
    · next hgo' => exact ih (n + 1) _ (by omega) hnext fun _ => Bool.eq_false_iff.2 hgo'

end Repeat

/-! ### Repeated string instructions (44_string_io R541) -/

/-- What the accumulator holds after an element: LODS loads it (44_string_io R545). -/
def StringOp.acc (op : StringOp) (w : Width) (s : State) : BitVec w.bits :=
  match op with
  | .lods => s.mem.val w s.source
  | .movs | .cmps | .scas | .stos | .ins | .outs => s.regs.rn w .n0

theorem loaded_eq (op : StringOp) (w : Width) (s : State) : op.loaded w s = s.regs.setRn w .n0 (op.acc w s) := by
  cases op with
  | lods => rfl
  | movs | cmps | scas | stos | ins | outs => exact (Bank.setRn_acc _ _).symm

/-- An index register as an offset, `n` elements on (44_string_io R540). -/
def State.offsetAt (s : State) (i : Num8) (w : Width) (n : Nat) : Word :=
  s.asz.trunc (if s.flags.df then s.indexAt i - BitVec.ofNat 32 (n * w.bytes)
    else s.indexAt i + BitVec.ofNat 32 (n * w.bytes))

/-- The linear address of source element `n` (44_string_io R540). -/
def State.sourceAt (s : State) (w : Width) (n : Nat) : Word := s.sourceSeg.base + s.offsetAt .n6 w n

/-- The linear address of destination element `n` (44_string_io R540). -/
def State.destAt (s : State) (w : Width) (n : Nat) : Word := s.segs.es.base + s.offsetAt .n7 w n

/-- `u` is `s` after `n` elements, the accumulator holding `acc n`: what every string operation has in common. -/
structure State.ran (s : State) (op : StringOp) (w : Width) (acc : Nat → BitVec w.bits) (n : Nat) (u : State) :
    Prop where
  around : s.around u
  regs : u.regs = s.counter (s.count - n) (s.stepped w n op.indices (s.regs.setRn w .n0 (acc n)))

section Ran

variable {s u : State} {op : StringOp} {w : Width} {acc : Nat → BitVec w.bits} {n : Nat} {k : RepKind}

theorem cellOf_count_ne_acc (z : Sz) (w : Width) : cellOf z.width .n1 ≠ cellOf w .n0 := by simp

namespace State.ran

theorem zero (h : s.paged = true) (hacc : acc 0 = s.regs.rn w .n0) : s.ran op w acc 0 s where
  around := .refl h
  regs := by rw [Nat.sub_zero, hacc, Bank.setRn_acc, stepped_zero, counter_count]

theorem count (hu : s.ran op w acc n u) : u.count = s.count - n :=
  count_of_counter hu.around.asz hu.regs (Nat.sub_le _ _)

theorem acc_eq (hu : s.ran op w acc n u) : u.regs.rn w .n0 = acc n := by
  have hn0 : cellOf w .n0 ∉ op.indices := by rw [cellOf_acc]; exact op.indices_nodup.2.1
  rw [hu.regs, State.counter, Bank.rn_setRn_of_ne (cellOf_count_ne_acc s.asz w), rn_stepped_of_notMem hn0,
    Bank.rn_setRn]

theorem indexAt_eq (hu : s.ran op w acc n u) {i : Num8} (hi : i ∈ op.indices) : u.indexAt i = s.offsetAt i w n := by
  obtain ⟨hnodup, hn0, hn1⟩ := op.indices_nodup
  have hi0 : .n0 ≠ i := fun he => hn0 (he ▸ hi)
  have hi1 : .n1 ≠ i := fun he => hn1 (he ▸ hi)
  rw [Machine.indexAt_eq, hu.around.asz, hu.regs, State.counter, Bank.rn_setRn_of_ne (by simpa using hi1),
    rn_stepped hnodup hi, Bank.rn_setRn_of_ne (by simpa using hi0), setWidth_add_stride]
  rfl

theorem source_eq (hu : s.ran op w acc n u) (hi : .n6 ∈ op.indices) : u.source = s.sourceAt w n := by
  rw [State.source, hu.around.sourceSeg, hu.indexAt_eq hi]
  rfl

theorem dest_eq (hu : s.ran op w acc n u) (hi : .n7 ∈ op.indices) : u.dest = s.destAt w n := by
  rw [State.dest, hu.around.segs, hu.indexAt_eq hi]
  rfl

/-- One more element. -/
theorem turn (h : s.paged = true) (hn : n < s.count) (hu : s.ran op w acc n u) (hacc : op.acc w u = acc (n + 1)) :
    s.ran op w acc (n + 1) (op.after w u).countDown := by
  obtain ⟨hnodup, hn0, hn1⟩ := op.indices_nodup
  have haround := hu.around.trans (after_around (hu.around.paged h) op w)
  have hregs : (op.after w u).regs = s.counter (s.count - n)
      (s.stepped w (n + 1) op.indices (s.regs.setRn w .n0 (acc (n + 1)))) := by
    show u.stepped w 1 op.indices (op.loaded w u) = _
    rw [hu.around.stepped, loaded_eq, hacc, hu.regs, State.counter, Bank.setRn_comm (cellOf_count_ne_acc s.asz w),
      ← stepped_setRn (by rwa [cellOf_acc]), Bank.setRn_setRn, stepped_setRn (by rwa [cellOf_size]),
      stepped_succ hnodup]
    rfl
  exact ⟨haround.setRegs _, (countDown_regs haround.asz hregs (by omega)).trans (by rw [Nat.sub_sub])⟩

end State.ran

theorem repeated_eq_repLoop (h : s.paged = true) (hrep : s.pfx.rep = some k) (stop : State → Bool)
    (body : State → State) : s.repeated stop body = repLoop stop body s.count s := by
  rw [State.repeated, hrep, repFuel_paged (State.paged_io h), asReg_eq]
  rfl

/-- A repetition runs elements until the counter is 0 or, in CMPS and SCAS, one has met the stop; `Q` is what each keeps
of the rest (44_string_io R541). -/
theorem string_runs (h : s.paged = true) (hrep : s.pfx.rep = some k) (hacc : acc 0 = s.regs.rn w .n0)
    {Q : Nat → State → Prop} (hQ0 : Q 0 s)
    (hQ : ∀ n u, s.ran op w acc n u → Q n u → (n ≠ 0 → op.stop u = false) →
      op.acc w u = acc (n + 1) ∧ Q (n + 1) (op.after w u).countDown) :
    let t := s.repeated op.stop (op.body w)
    ∃ n ≤ s.count, (s.ran op w acc n t ∧ Q n t) ∧ (n ≠ s.count → n ≠ 0 ∧ op.stop t = true) := by
  intro t
  have ht : t = repLoop op.stop (op.body w) s.count s := repeated_eq_repLoop h hrep _ _
  rw [ht]
  refine repLoop_runs (P := fun n u => s.ran op w acc n u ∧ Q n u) (fun n u ⟨hran, _⟩ => hran.count)
    (fun n u hn ⟨hran, hQu⟩ hgo => ?_) s.count 0 s (Nat.zero_add _) ⟨.zero h hacc, hQ0⟩ (fun hne => absurd rfl hne)
  obtain ⟨haccu, hQnext⟩ := hQ n u hran hQu hgo
  rw [body_eq_after (hran.around.paged h)]
  exact ⟨hran.turn h hn haccu, hQnext⟩

/-- MOVS, LODS, STOS, INS and OUTS run as many elements as the counter says. -/
theorem string_runs_all (h : s.paged = true) (hrep : s.pfx.rep = some k) (hop : op.compares = false)
    (hacc : acc 0 = s.regs.rn w .n0) {Q : Nat → State → Prop} (hQ0 : Q 0 s)
    (hQ : ∀ n u, s.ran op w acc n u → Q n u → op.acc w u = acc (n + 1) ∧ Q (n + 1) (op.after w u).countDown) :
    let t := s.repeated op.stop (op.body w)
    s.ran op w acc s.count t ∧ Q s.count t := by
  obtain ⟨n, -, hrun, hend⟩ := string_runs h hrep hacc hQ0 fun n u hu hQu _ => hQ n u hu hQu
  by_cases hn : n = s.count
  · exact hn ▸ hrun
  · have hstop : op.stop = neverStop := by rw [StringOp.stop, hop]; rfl
    rw [hstop] at hend
    exact absurd (hend hn).2 Bool.false_ne_true

/-- A repeated instruction is one element and, unless that is to stop, the same instruction again. -/
theorem string_goesOn (h : s.paged = true) (hrep : s.pfx.rep = some k) (hio : op.accessesPorts = true → s.mayDoIo)
    {stop : State → Bool} (hstop : ∀ v : State, v.pfx = s.pfx → op.stop v = stop v) :
    (s.count = 0 → completes (op.instr w) s fun t => t = s) ∧
    (s.count ≠ 0 → completes (op.instr w) { s with pfx := { s.pfx with rep := none } } fun u =>
      let v := { u with
        pfx := s.pfx
        regs := u.regs.setRn s.asz.width .n1 (u.regs.rn s.asz.width .n1 - BitVec.ofNat s.asz.width.bits 1) }
      exec (op.instr w) s = if stop v then .next v else exec (op.instr w) v) := by
  have hexec : exec (op.instr w) s = .next (repLoop op.stop (op.body w) s.count s) := by
    rw [exec_stringInstr hio, repeated_eq_repLoop h hrep]
  constructor
  · intro hzero
    exact ⟨s, by rw [hexec, hzero]; rfl, rfl⟩
  · intro hcount
    refine completes_element (s := { s with pfx := { s.pfx with rep := none } }) h rfl hio ?_
    rw [after_rep]
    intro v
    have haround : s.around v := (after_around h op w).setRegs _
    have hran : s.ran op w (fun n => if n = 0 then s.regs.rn w .n0 else op.acc w s) 1 v :=
      (State.ran.zero h rfl).turn h (Nat.pos_of_ne_zero hcount) rfl
    have hpfx : v.pfx.rep = some k := hrep
    obtain ⟨m, hm⟩ := Nat.exists_eq_succ_of_ne_zero hcount
    have hvcount : v.count = m := by rw [hran.count, hm]; rfl
    rw [hexec, exec_stringInstr fun hport => haround.mayDoIo (hio hport), repeated_eq_repLoop (haround.paged h) hpfx,
      hvcount, hm, repLoop_succ hcount, body_eq_after h, ← hstop v rfl]
    exact apply_ite Host.Outcome.next _ _ _

end Ran

/-! ### Elements stored in turn (44_string_io R541) -/

section InTurn

variable {w : Width} {place : Nat → Word} {value : Memory → Nat → BitVec w.bits} {m m' m1 m2 : Memory} {n : Nat}

theorem storedInTurn_concat (hkept : m'.kept m1) (hstored : m1.stored m2 w (place n) (value m' n)) :
    ∀ {ns : List Nat} {m : Memory}, storedInTurn w place value ns m m' → storedInTurn w place value (ns ++ [n]) m m2
  | [], _, h => ⟨m1, m2, h ▸ hkept, h ▸ hstored, rfl⟩
  | _ :: _, _, ⟨a, b, ha, hb, h⟩ => ⟨a, b, ha, hb, storedInTurn_concat hkept hstored h⟩

theorem keepsBut_of_storedInTurn : ∀ {ns : List Nat} {m : Memory}, storedInTurn w place value ns m m' →
    m.keepsBut m' (ns.flatMap fun n => span w.bytes (place n))
  | [], m, h => h ▸ m.keepsBut_refl _
  | _ :: _, _, ⟨_, _, ha, hb, h⟩ =>
    Memory.keepsBut_trans (Memory.keepsBut_trans ha hb.1) (keepsBut_of_storedInTurn h)

/-- One more element stored, the last of `n + 1`. -/
theorem keepsBut_range_succ (hkept : m.keepsBut m' ((List.range n).flatMap fun j => span w.bytes (place j)))
    {v : BitVec w.bits} (hstored : m'.stored m2 w (place n) v) :
    m.keepsBut m2 ((List.range (n + 1)).flatMap fun j => span w.bytes (place j)) := by
  rw [List.range_succ, List.flatMap_append, List.flatMap_singleton]
  exact Memory.keepsBut_trans hkept hstored.1

end InTurn

/-! ### Comparisons (44_string_io R541, R543, R544) -/

/-- A comparison sets ZF where its operands are equal (40_alu_primitives R256). -/
theorem opSub_zf {n : Nat} (hn : 4 ≤ n) (x y : BitVec n) (f : Eflags) (d : Nat) :
    (opSub n x y f d).2.zf = decide (x = y) := by
  obtain ⟨-, -, -, -, ⟨hzf, -⟩, -⟩ := subTable_opSub f d hn x y
  rw [hzf, decide_eq_decide]
  exact (BitVec.toNat_eq (y := 0#n)).symm.trans BitVec.sub_eq_iff_eq_add |>.trans (by simp)

/-- What REPE and REPNE stop on, after a comparison (44_string_io R541). -/
def repStop (k : RepKind) (u : State) : Bool :=
  match k with
  | .rep => !u.flags.zf
  | .repne => u.flags.zf

theorem compares_stop {op : StringOp} {u : State} {k : RepKind} (hop : op.compares = true)
    (hk : u.pfx.rep = some k) : op.stop u = repStop k u := by
  rw [StringOp.stop, hop, if_pos rfl, stopOnZf, hk]
  cases k <;> rfl

theorem repStop_iff {u : State} {z : Prop} [Decidable z] (hz : u.flags.zf = decide z) (k : RepKind) :
    (repStop k u = true ↔ (z ↔ k = .repne)) ∧ (repStop k u = false ↔ (z ↔ k = .rep)) := by
  cases k <;> simp [repStop, hz]

section Ran

variable {s u : State} {w : Width} {acc : Nat → BitVec w.bits} {n : Nat}

/-- Element `n` of MOVS (44_string_io R542). -/
theorem movs_stored (hu : s.ran .movs w acc n u) : ∃ m1, u.mem.kept m1 ∧
    m1.stored (StringOp.movs.memAfter w u) w (s.destAt w n) (u.mem.val w (s.sourceAt w n)) := by
  refine ⟨_, Memory.kept_touchRead hu.around.wf w u.source, ?_⟩
  rw [← hu.source_eq (by decide), ← hu.dest_eq (by decide)]
  exact Memory.stored_store (Memory.wf_touchRead hu.around.wf w u.source) w _ _

/-- Element `n` of STOS (44_string_io R546). -/
theorem stos_stored (hu : s.ran .stos w acc n u) : ∃ m1, u.mem.kept m1 ∧
    m1.stored (StringOp.stos.memAfter w u) w (s.destAt w n) (acc n) := by
  refine ⟨_, Memory.kept_refl _, ?_⟩
  rw [← hu.dest_eq (by decide), ← hu.acc_eq]
  exact Memory.stored_store hu.around.wf w _ _

/-- Element `n` of INS, after its port was read (44_string_io R547). -/
theorem ins_stored (hu : s.ran .ins w acc n u) : ∃ m1, u.mem.kept m1 ∧
    m1.stored (StringOp.ins.memAfter w u) w (s.destAt w n) (u.portVal w u.dx) := by
  refine ⟨(u.portTouch w u.dx).mem, Memory.kept_refl u.mem, ?_⟩
  rw [← hu.dest_eq (by decide)]
  exact Memory.stored_store (m := (u.portTouch w u.dx).mem) hu.around.wf w _ _

/-- Element `n` of CMPS compares the bytes that were there at first (44_string_io R543). -/
theorem cmps_flags (hu : s.ran .cmps w acc n u) (hkept : s.mem.kept u.mem) : StringOp.cmps.flagsAfter w u =
    (opSub w.bits (s.mem.val w (s.sourceAt w n)) (s.mem.val w (s.destAt w n)) u.flags u.draws).2 := by
  rw [StringOp.flagsAfter, hu.source_eq (by decide), hu.dest_eq (by decide), Memory.val_of_kept hkept,
    Memory.val_of_kept hkept]

/-- Element `n` of SCAS (44_string_io R544). -/
theorem scas_flags (hu : s.ran .scas w acc n u) (hkept : s.mem.kept u.mem) : StringOp.scas.flagsAfter w u =
    (opSub w.bits (acc n) (s.mem.val w (s.destAt w n)) u.flags u.draws).2 := by
  rw [StringOp.flagsAfter, hu.acc_eq, hu.dest_eq (by decide), Memory.val_of_kept hkept]

end Ran

/-- `u` is reached from `s` by `n` comparisons of `x j` with `y j`, none but the last of which has met the stop. -/
structure State.compared (s : State) (k : RepKind) {m : Nat} (x y : Nat → BitVec m) (n : Nat) (u : State) : Prop where
  ports : u.ports = s.ports
  kept : s.mem.kept u.mem
  flags : n ≠ 0 → ∃ r, subTable (x (n - 1)) (y (n - 1)) false r s.flags u.flags
  zf : n ≠ 0 → u.flags.zf = decide (x (n - 1) = y (n - 1))
  went : ∀ j, j + 1 < n → (x j = y j ↔ k = .rep)

namespace State.compared

variable {s u : State} {k : RepKind} {m n : Nat} {x y : Nat → BitVec m}

theorem zero (s : State) (k : RepKind) (x y : Nat → BitVec m) : s.compared k x y 0 s where
  ports := rfl
  kept := Memory.kept_refl _
  flags := fun hne => absurd rfl hne
  zf := fun hne => absurd rfl hne
  went := fun _ hj => absurd hj (Nat.not_lt_zero _)

/-- One more comparison, where the one before has not met the stop. -/
theorem succ {t : State} (hm : 4 ≤ m) (hctl : s.flags.sameControl u.flags)
    (hu : s.compared k x y n u) (hgo : n ≠ 0 → repStop k u = false) (hports : t.ports = u.ports)
    (hkept : u.mem.kept t.mem) (hflags : t.flags = (opSub m (x n) (y n) u.flags u.draws).2) :
    s.compared k x y (n + 1) t where
  ports := hports.trans hu.ports
  kept := Memory.kept_trans hu.kept hkept
  flags := fun _ => ⟨_, hflags ▸ subTable_of_sameControl hctl (subTable_opSub u.flags u.draws hm (x n) (y n))⟩
  zf := fun _ => hflags ▸ opSub_zf hm _ _ _ _
  went := fun j hj => by
    by_cases hlast : j + 1 < n
    · exact hu.went j hlast
    · obtain rfl : n = j + 1 := by omega
      exact (repStop_iff (hu.zf j.succ_ne_zero) k).2.1 (hgo j.succ_ne_zero)

end State.compared

section Runs

variable {s : State} {w : Width} {k : RepKind} (h : s.paged = true) (hrep : s.pfx.rep = some k)
include h hrep

/-- What holds after all elements of an operation that does not compare or load the accumulator. -/
theorem completes_all {op : StringOp} (hio : op.accessesPorts = true → s.mayDoIo) (hcmp : op.compares = false)
    (hacc : ∀ u, op.acc w u = u.regs.rn w .n0) {Q : Nat → State → Prop} (hQ0 : Q 0 s)
    (hQ : ∀ n u, s.ran op w (fun _ => s.regs.rn w .n0) n u → Q n u → Q (n + 1) (op.after w u).countDown) :
    completes (op.instr w) s fun t =>
      s.around t ∧ t.regs = s.counter 0 (s.stepped w s.count op.indices s.regs) ∧ Q s.count t := by
  obtain ⟨⟨haround, hregs⟩, hQt⟩ := string_runs_all (acc := fun _ => s.regs.rn w .n0) h hrep hcmp rfl hQ0
    fun n u hu hQu => ⟨(hacc u).trans hu.acc_eq, hQ n u hu hQu⟩
  rw [Nat.sub_self, Bank.setRn_acc] at hregs
  exact ⟨_, exec_stringInstr hio w, haround, hregs, hQt⟩

/-- MOVS and STOS store their elements in turn and nothing else. -/
theorem completes_storing {op : StringOp} (hop : op.accessesPorts = false) (hcmp : op.compares = false)
    (hacc : ∀ u, op.acc w u = u.regs.rn w .n0) (hports : ∀ u, (op.ported w u).ports = u.ports)
    (hflags : ∀ u, op.flagsAfter w u = u.flags) {value : Memory → Nat → BitVec w.bits}
    (hstored : ∀ n u, s.ran op w (fun _ => s.regs.rn w .n0) n u →
      ∃ m1, u.mem.kept m1 ∧ m1.stored (op.memAfter w u) w (s.destAt w n) (value u.mem n)) :
    completes (op.instr w) s fun t =>
      s.sameButData t ∧ t.flags = s.flags ∧
        s.mem.keepsBut t.mem ((List.range s.count).flatMap fun n => span w.bytes (s.destAt w n)) ∧
        t.regs = s.counter 0 (s.stepped w s.count op.indices s.regs) ∧
        storedInTurn w (s.destAt w) value (List.range s.count) s.mem t.mem := by
  refine completes_mono (completes_all h hrep (noPorts hop) hcmp hacc (Q := fun n t => t.ports = s.ports ∧
    t.flags = s.flags ∧ storedInTurn w (s.destAt w) value (List.range n) s.mem t.mem) ⟨rfl, rfl, rfl⟩
    fun n u hu hQ => ?_) ?_
  · obtain ⟨hp, hf, hm⟩ := hQ
    obtain ⟨m1, hkept, hst⟩ := hstored n u hu
    refine ⟨(hports u).trans hp, (hflags u).trans hf, ?_⟩
    rw [List.range_succ]
    exact storedInTurn_concat hkept hst hm
  · intro t ⟨haround, hregs, hp, hf, hm⟩
    exact ⟨haround.sameButData hp, hf, keepsBut_of_storedInTurn hm, hregs, hm⟩

/-- LODS leaves the last element read, or the accumulator as it was. -/
theorem completes_repLods : completes (StringOp.lods.instr w) s fun t => s.onlyRegs t ∧
    t.regs = s.counter 0 (s.stepped w s.count [.n6] (if s.count = 0 then s.regs
      else s.regs.setRn w .n0 (s.mem.val w (s.sourceAt w (s.count - 1))))) := by
  obtain ⟨⟨haround, hregs⟩, hports, hflags, hkept⟩ := string_runs_all (op := .lods) (w := w)
    (acc := fun n => if n = 0 then s.regs.rn w .n0 else s.mem.val w (s.sourceAt w (n - 1))) h hrep rfl rfl
    (Q := fun _ t => t.ports = s.ports ∧ t.flags = s.flags ∧ s.mem.kept t.mem) ⟨rfl, rfl, Memory.kept_refl _⟩
    fun n u hu hQ => by
      obtain ⟨hp, hf, hm⟩ := hQ
      have hval : u.mem.val w u.source = s.mem.val w (s.sourceAt w n) := by
        rw [hu.source_eq (by decide), Memory.val_of_kept hm]
      exact ⟨hval, hp, hf, Memory.kept_trans hm (Memory.kept_touchRead hu.around.wf w _)⟩
  refine ⟨_, exec_stringInstr (noPorts rfl) w, ⟨haround.sameButData hports, hflags, hkept⟩, ?_⟩
  rw [hregs, Nat.sub_self]
  split
  · rw [Bank.setRn_acc]
    rfl
  · rfl

/-- CMPS and SCAS run until one element has met the stop, or the counter is 0; the flags are those of the last. -/
theorem completes_repCompare {op : StringOp} (hop : op.accessesPorts = false) (hcmp : op.compares = true)
    (hports : ∀ u, (op.ported w u).ports = u.ports) (hacc : ∀ u, op.acc w u = u.regs.rn w .n0)
    (hkept : ∀ u : State, u.mem.wf = true → u.mem.kept (op.memAfter w u)) {x y : Nat → BitVec w.bits}
    (hflags : ∀ n u, s.ran op w (fun _ => s.regs.rn w .n0) n u → s.mem.kept u.mem →
      op.flagsAfter w u = (opSub w.bits (x n) (y n) u.flags u.draws).2) :
    completes (op.instr w) s fun t => s.sameButData t ∧ s.mem.kept t.mem ∧ ∃ n, n ≤ s.count ∧
      (n = 0 ↔ s.count = 0) ∧ t.regs = s.counter (s.count - n) (s.stepped w n op.indices s.regs) ∧ (n = 0 → t = s) ∧
      (n ≠ 0 → ∃ r, subTable (x (n - 1)) (y (n - 1)) false r s.flags t.flags) ∧
      (∀ j, j + 1 < n → (x j = y j ↔ k = .rep)) ∧ (n ≠ s.count → (x (n - 1) = y (n - 1) ↔ k = .repne)) := by
  have hstop {u : State} (hu : s.around u) : op.stop u = repStop k u := compares_stop hcmp (hu.pfx.symm ▸ hrep)
  obtain ⟨n, hn, ⟨⟨haround, hregs⟩, hcompared⟩, hend⟩ := string_runs (op := op) (w := w)
    (acc := fun _ => s.regs.rn w .n0) h hrep rfl (Q := s.compared k x y) (.zero s k x y) fun n u hu hQ hgo =>
      ⟨(hacc u).trans hu.acc_eq, hQ.succ (four_le_bits w) hu.around.control
        (fun hne => hstop hu.around ▸ hgo hne) (hports u) (hkept u hu.around.wf) (hflags n u hu hQ.kept)⟩
  have hzero : n = 0 → s.count = 0 := fun hn0 => by
    by_contra hcount
    exact (hend (hn0 ▸ Ne.symm hcount)).1 hn0
  rw [Bank.setRn_acc] at hregs
  refine ⟨_, exec_stringInstr (noPorts hop) w, haround.sameButData hcompared.ports, hcompared.kept, n, hn,
    ⟨hzero, fun hcount => Nat.le_zero.1 (hcount ▸ hn)⟩, hregs, fun hn0 => ?_, hcompared.flags, hcompared.went,
    fun hne => ?_⟩
  · rw [repeated_eq_repLoop h hrep, hzero hn0]
    rfl
  · obtain ⟨hn0, hmet⟩ := hend hne
    exact (repStop_iff (hcompared.zf hn0) k).1.1 (hstop haround ▸ hmet)

/-- INS stores its elements, and writes no port. -/
theorem completes_repIns (hio : s.mayDoIo) : completes (StringOp.ins.instr w) s fun t =>
    s.around t ∧ t.flags = s.flags ∧
      s.mem.keepsBut t.mem ((List.range s.count).flatMap fun n => span w.bytes (s.destAt w n)) ∧
      t.regs = s.counter 0 (s.stepped w s.count [.n7] s.regs) ∧ t.ports.wr = s.ports.wr ∧
      t.ports.out = s.ports.out := by
  refine completes_mono (completes_all (op := .ins) h hrep (fun _ => hio) rfl (fun _ => rfl) (Q := fun n t =>
    t.flags = s.flags ∧ s.mem.keepsBut t.mem ((List.range n).flatMap fun n => span w.bytes (s.destAt w n)) ∧
      t.ports.wr = s.ports.wr ∧ t.ports.out = s.ports.out) ⟨rfl, Memory.keepsBut_refl _ _, rfl, rfl⟩
    fun n u hu hQ => ?_) ?_
  · obtain ⟨hf, hm, hwr, hout⟩ := hQ
    obtain ⟨rd, hrd⟩ := u.ports.exists_countReads_eq (portSpan w.bytes u.dx)
    have hports : (StringOp.ins.ported w u).ports = { u.ports with rd := rd } := hrd
    obtain ⟨m1, hkept, hstored⟩ := ins_stored hu
    exact ⟨hf, keepsBut_range_succ hm (Memory.stored_of_kept hkept hstored),
      (congrArg Ports.wr hports).trans hwr, (congrArg Ports.out hports).trans hout⟩
  · exact fun t ⟨haround, hregs, hf, hm, hports⟩ => ⟨haround, hf, hm, hregs, hports⟩

/-- OUTS changes no byte, and reads no port. -/
theorem completes_repOuts (hio : s.mayDoIo) : completes (StringOp.outs.instr w) s fun t =>
    s.around t ∧ t.flags = s.flags ∧ s.mem.kept t.mem ∧ t.regs = s.counter 0 (s.stepped w s.count [.n6] s.regs) ∧
      t.ports.rd = s.ports.rd := by
  refine completes_mono (completes_all (op := .outs) h hrep (fun _ => hio) rfl (fun _ => rfl) (Q := fun n t =>
    t.flags = s.flags ∧ s.mem.kept t.mem ∧ t.ports.rd = s.ports.rd) ⟨rfl, Memory.kept_refl _, rfl⟩
    fun n u hu hQ => ?_) ?_
  · obtain ⟨hf, hm, hrd⟩ := hQ
    have hread := Memory.kept_touchRead hu.around.wf w u.source
    exact ⟨hf, Memory.kept_trans hm hread, (portWrite_rd (s := u.setMem _) w _ _).trans hrd⟩
  · exact fun t ⟨haround, hregs, hf, hm, hrd⟩ => ⟨haround, hf, hm, hregs, hrd⟩

end Runs

/-- Settles O55: each repetition as its elements in turn. -/
theorem repeatRunsCount : Obligations.RepeatRunsCount := by
  unfold Obligations.RepeatRunsCount
  intro s k h hrep cnt z counter at_ from_ to_ written rest goesOn compared
  have hrest {t : State} (ht : s.around t) (hf : t.flags = s.flags) : rest t :=
    ⟨ht.system, ht.intr, ht.segs, ht.eip, hf⟩
  have hcounted (op : StringOp) (w : Width) (hio : op.accessesPorts = true → s.mayDoIo) (hcmp : op.compares = false) :
      goesOn (op.instr w) fun _ => false :=
    string_goesOn (w := w) (stop := fun _ => false) h hrep hio fun v _ => by rw [StringOp.stop, hcmp]; rfl
  refine ⟨StringOp.forall_instrs [.movs, .lods, .stos] fun op hop w => ?_,
    StringOp.forall_instrs [.cmps, .scas] fun op hop w => ?_,
    StringOp.forall_widths .movs fun w => ?_,
    StringOp.forall_widths .stos fun w => ?_,
    StringOp.forall_widths .lods fun w => completes_repLods h hrep,
    StringOp.forall_widths .cmps fun w => ?_,
    StringOp.forall_widths .scas fun w => ?_,
    fun hio => ⟨StringOp.forall_instrs [.ins, .outs] fun op hop w => ?_,
      StringOp.forall_widths .ins fun w => ?_,
      StringOp.forall_widths .outs fun w => ?_⟩⟩
  · obtain ⟨hport, hcmp⟩ := (by decide : ∀ op ∈ [StringOp.movs, .lods, .stos],
      op.accessesPorts = false ∧ op.compares = false) op hop
    exact hcounted op w (noPorts hport) hcmp
  · obtain ⟨hport, hcmp⟩ := (by decide : ∀ op ∈ [StringOp.cmps, .scas],
      op.accessesPorts = false ∧ op.compares = true) op hop
    exact string_goesOn (w := w) (stop := repStop k) h hrep (noPorts hport) fun v hv => compares_stop hcmp (hv ▸ hrep)
  · exact completes_storing (op := .movs) h hrep rfl rfl (fun _ => rfl) (fun _ => rfl) (fun _ => rfl)
      fun n u hu => movs_stored hu
  · exact completes_storing (op := .stos) h hrep rfl rfl (fun _ => rfl) (fun _ => rfl) (fun _ => rfl)
      fun n u hu => stos_stored hu
  · exact completes_repCompare (op := .cmps) h hrep rfl rfl (fun _ => rfl) (fun _ => rfl)
      (fun u hwf => Memory.kept_trans (Memory.kept_touchRead hwf w _)
        (Memory.kept_touchRead (Memory.wf_touchRead hwf w _) w _))
      fun n u hu hkept => cmps_flags hu hkept
  · exact completes_repCompare (op := .scas) h hrep rfl rfl (fun _ => rfl) (fun _ => rfl)
      (fun u hwf => Memory.kept_touchRead hwf w _) fun n u hu hkept => scas_flags hu hkept
  · exact hcounted op w (fun _ => hio) ((by decide : ∀ op ∈ [StringOp.ins, .outs], op.compares = false) op hop)
  · exact completes_mono (completes_repIns h hrep hio) fun t ⟨ht, hf, hm, hregs, hports⟩ =>
      ⟨hrest ht hf, hm, hregs, hports⟩
  · exact completes_mono (completes_repOuts h hrep hio) fun t ⟨ht, hf, hm, hregs, hports⟩ =>
      ⟨hrest ht hf, hm, hregs, hports⟩

end Sys2Proof.Machine

/-! PROOFS. Outside level 0 no instruction changes a system register or run control (45_system R580, 60_exceptions R671):
one rule per operation that accesses memory or checks, then all instructions at once. -/

namespace Sys2Proof.Machine

/-- System registers are `y`, run control is `c`, the paged memory answers accesses and no hook replaces a transfer. No
matter of the registers, EIP, EFLAGS, segments, the pending slot, prefixes, ports, memory and draws. -/
def State.guarded (y : Sys) (c : Ctl) (s : State) : Prop :=
  s.io = none ∧ s.cfg.callJmpHook = false ∧ s.sys = y ∧ s.ctl = c

namespace State.guarded

variable {y : Sys} {c : Ctl} {s : State}

theorem io (h : s.guarded y c) : s.io = none := h.1

/-! ### Accesses to memory -/

theorem memTouch {w : Width} {a : Word} (h : s.guarded y c) : (s.memTouch w a).guarded y c := by
  rw [memTouch_paged h.io]
  exact h

theorem memStore {w : Width} {a : Word} {v : BitVec w.bits} (h : s.guarded y c) : (s.memStore w a v).guarded y c := by
  rw [memStore_paged h.io]
  exact h

theorem segTouch {w : Width} {g : Seg} {off : Word} (h : s.guarded y c) : (s.segTouch w g off).guarded y c :=
  h.memTouch

theorem segStore {w : Width} {g : Seg} {off : Word} {v : BitVec w.bits} (h : s.guarded y c) :
    (s.segStore w g off v).guarded y c := h.memStore

theorem stackTouch {w : Width} {k : Nat} (h : s.guarded y c) : (s.stackTouch w k).guarded y c := h.segTouch

theorem placeTouch {w : Width} {p : Place} (h : s.guarded y c) : (s.placeTouch w p).guarded y c := by
  cases p with
  | reg r => exact h
  | mem g off => exact h.segTouch

theorem placeStore {w : Width} {p : Place} {v : BitVec w.bits} (h : s.guarded y c) :
    (s.placeStore w p v).guarded y c := by
  cases p with
  | reg r => exact h
  | mem g off => exact h.segStore

theorem rmTouch {w : Width} {rm : RM} (h : s.guarded y c) : (s.rmTouch w rm).guarded y c := h.placeTouch

theorem eaTouch {w : Width} {m : MemRef} {k : Nat} (h : s.guarded y c) : (s.eaTouch w m k).guarded y c := h.placeTouch

theorem farTouch {m : MemRef} (h : s.guarded y c) : (s.farTouch m).guarded y c := h.eaTouch.placeTouch

theorem push {w : Width} {v : BitVec w.bits} (h : s.guarded y c) : (s.push w v).guarded y c :=
  h.segStore (w := w) (g := .ss) (off := s.pushOff w) (v := v)

theorem popped {w : Width} (h : s.guarded y c) : (s.popped w).guarded y c :=
  h.segTouch (w := w) (g := .ss) (off := s.sp)

/-- `LoadSeg` reads a descriptor at most, then loads or raises (20_memory R132, R136). -/
theorem loadSeg {g : Seg} {sel : BitVec 16} {k : State → State} (h : s.guarded y c)
    (hk : ∀ u : State, u.guarded y c → (k u).guarded y c) : (loadSeg g sel s k).guarded y c := by
  have htouch : (s.segLoadTouch sel).guarded y c := by
    unfold State.segLoadTouch
    split
    · exact h
    · split
      · exact h
      · exact h.memTouch.memTouch
  cases hr : s.segLoad (s.segs.get g) sel with
  | some v => rw [loadSeg_some hr]; exact hk _ htouch
  | none => rw [loadSeg_none hr]; exact htouch

/-! ### Checks and repetition -/

theorem requireCpl0 {k : State → State} (h : s.guarded y c) (hpe : s.pe = true) (hcpl : s.cpl ≠ 0) :
    (requireCpl0 s k).guarded y c := by
  rw [requireCpl0_fail k hpe hcpl]
  exact h

theorem checkIopl {k : State → State} (h : s.guarded y c) (hk : (k s).guarded y c) : (checkIopl s k).guarded y c := by
  unfold Machine.checkIopl
  split
  · exact h
  · exact hk

theorem protectedOnly {k : State → State} (h : s.guarded y c) (hk : (k s).guarded y c) :
    (protectedOnly s k).guarded y c := by
  unfold Machine.protectedOnly
  split
  · exact hk
  · exact h

theorem repeated {stop : State → Bool} {body : State → State} (h : s.guarded y c)
    (hb : ∀ u : State, u.guarded y c → (body u).guarded y c) : (s.repeated stop body).guarded y c := by
  unfold State.repeated
  split
  · exact hb s h
  · exact repLoop_keeps (P := State.guarded y c) (fun u hu _ => hb u hu) _ s h

/-! ### Meanings that several instructions share -/

theorem alu {op : BinOp} {f : AluForm} (h : s.guarded y c) : (s.alu op f).guarded y c :=
  placeStore (h.rmTouch)

theorem unary {op : UnOp} {w : Width} {rm : RM} (h : s.guarded y c) : (s.unary op w rm).guarded y c :=
  placeStore h.rmTouch

theorem divide {w : Width} {qr : Option (BitVec w.bits × BitVec w.bits)} (h : s.guarded y c) :
    (s.divide w qr).guarded y c := by
  cases qr with
  | none => exact h
  | some _ => exact h

theorem storeWord {rm : RM} {v : BitVec 16} (h : s.guarded y c) : (s.storeWord rm v).guarded y c := by
  cases rm with
  | reg r => exact h
  | mem m => exact h.segStore

theorem storeTable {table : Sys → TableReg} {m : MemRef} (h : s.guarded y c) : (s.storeTable table m).guarded y c :=
  h.placeStore.placeStore

theorem loadFar {g : Seg} {r : Num8} {m : MemRef} (h : s.guarded y c) : (s.loadFar g r m).guarded y c :=
  h.farTouch.loadSeg fun _ hu => hu

theorem popReg {w : Width} {r : Num8} (h : s.guarded y c) : (s.popReg w r).guarded y c := h.popped

theorem pushAll {w : Width} (h : s.guarded y c) : (s.pushAll w).guarded y c :=
  h.push.push.push.push.push.push.push.push

theorem popAll {w : Width} (h : s.guarded y c) : (s.popAll w).guarded y c :=
  h.popReg.popReg.popReg.popped.popReg.popReg.popReg.popReg

theorem enterLevels {w : Width} (n : Nat) (h : s.guarded y c) : (enterLevels w n s).guarded y c := by
  induction n generalizing s with
  | zero => exact h
  | succ n ih => exact ih (push (segTouch h))

theorem farJump {sel : BitVec 16} {off : Word} (h : s.guarded y c) : (s.farJump sel off).guarded y c :=
  h.loadSeg fun _ hu => hu

theorem farCall {w : Width} {sel : BitVec 16} {off : Word} (h : s.guarded y c) : (s.farCall w sel off).guarded y c :=
  h.loadSeg fun _ hu => hu.push.push

theorem farReturn {w : Width} {extra : Word} (h : s.guarded y c) : (s.farReturn w extra).guarded y c :=
  h.stackTouch.stackTouch.loadSeg fun _ hu => hu

theorem interruptReturn {w : Width} (h : s.guarded y c) : (s.interruptReturn w).guarded y c :=
  h.stackTouch.stackTouch.stackTouch.loadSeg fun _ hu => hu

/-- Without a call/jump hook the transfer goes on (43_control_transfer R504). -/
theorem hooked {k : CallKind} {rm : RM} {u : State} (h : s.guarded y c) (hu : u.guarded y c) :
    ((s.hooked k rm).getD u).guarded y c := by
  obtain ⟨-, hhook, -⟩ := h
  cases rm with
  | reg r => exact hu
  | mem m => simpa [State.hooked, hhook] using hu

/-! ### One element of a string instruction -/

theorem movsBody {w : Width} (h : s.guarded y c) : (movsBody w s).guarded y c := segStore h.segTouch

theorem cmpsBody {w : Width} (h : s.guarded y c) : (cmpsBody w s).guarded y c := segTouch h.segTouch

theorem scasBody {w : Width} (h : s.guarded y c) : (scasBody w s).guarded y c := h.segTouch

theorem lodsBody {w : Width} (h : s.guarded y c) : (lodsBody w s).guarded y c := h.segTouch

theorem stosBody {w : Width} (h : s.guarded y c) : (stosBody w s).guarded y c := h.segStore

theorem insBody {w : Width} (h : s.guarded y c) : (insBody w s).guarded y c :=
  segStore (s := s.portTouch w (s.regs.r16 .n2)) h

theorem outsBody {w : Width} (h : s.guarded y c) : (outsBody w s).guarded y c := h.segTouch

/-! ### Instructions with cases of their own -/

theorem execAam {ib : Byte} (h : s.guarded y c) : answers (guarded y c) (execAam ib s) := by
  unfold Machine.execAam
  split <;> exact h

theorem execImul3 {r : Num8} {rm : RM} {v : ImulImm} (h : s.guarded y c) :
    answers (guarded y c) (execImul3 r rm v s) := by
  cases v with
  | iz z => exact h.rmTouch
  | ib v => exact h.rmTouch

theorem execMov {f : MovForm} (h : s.guarded y c) : answers (guarded y c) (execMov f s) := by
  cases f with
  | rmR w rm r => exact h.placeStore
  | rRm w r rm => exact h.rmTouch
  | ebIb rm v => exact h.placeStore
  | evIz rm z => exact h.placeStore
  | rIb r v => exact h
  | rIz r z => exact h
  | accOff w o => exact h.segTouch
  | offAcc w o => exact h.segStore

theorem execXchg {f : XchgForm} (h : s.guarded y c) : answers (guarded y c) (execXchg f s) := by
  cases f with
  | rmR w rm r => exact placeStore h.rmTouch
  | acc r => exact h

theorem execPush {f : PushForm} (h : s.guarded y c) : answers (guarded y c) (execPush f s) := by
  cases f with
  | seg g => exact h.push
  | reg r => exact h.push
  | iz z => exact h.push
  | ib v => exact h.push
  | ev rm => exact push h.rmTouch

theorem execPop {f : PopForm} (h : s.guarded y c) : answers (guarded y c) (execPop f s) := by
  cases f with
  | reg r => exact h.popReg
  | ev rm => exact placeStore h.popped

theorem execEnter {size : BitVec 16} {level : Byte} (h : s.guarded y c) :
    answers (guarded y c) (execEnter size level s) := by
  unfold Machine.execEnter
  dsimp only
  split
  · exact h.push
  · exact push (enterLevels _ h.push)

theorem execInto (h : s.guarded y c) : answers (guarded y c) (execInto s) := by
  unfold Machine.execInto
  split <;> exact h

theorem execBound {r : Num8} {m : MemRef} (h : s.guarded y c) : answers (guarded y c) (execBound r m s) := by
  unfold Machine.execBound
  dsimp only
  split <;> exact placeTouch h.eaTouch

theorem execArpl {rm : RM} {r : Num8} (h : s.guarded y c) : answers (guarded y c) (execArpl rm r s) := by
  refine h.protectedOnly ?_
  dsimp only
  split
  · exact placeStore h.rmTouch
  · exact h.rmTouch

theorem execSmsw {rm : RM} (h : s.guarded y c) : answers (guarded y c) (execSmsw rm s) := by
  cases rm with
  | reg r => exact h
  | mem m => exact h.segStore

/-- Outside level 0: an instruction that writes a system register or halts asks for level 0 first, in the state it
starts from (45_system R580). -/
theorem exec (h : s.guarded y c) (hpe : s.pe = true) (hcpl : s.cpl ≠ 0) : ∀ i, answers (guarded y c) (exec i s)
  | .pfxEs | .pfxCs | .pfxSs | .pfxDs | .pfxFs | .pfxGs => h
  | .pfxOpSize | .pfxAdSize | .pfxLock | .pfxRepne | .pfxRep => h
  | .add _ | .adc _ | .sbb _ | .sub _ | .or _ | .and _ | .xor _ => h.alu
  | .cmp _ | .test _ => h.rmTouch
  | .inc _ | .dec _ | .not _ _ | .neg _ _ => h.unary
  | .mul _ _ | .imul _ _ | .imul2 _ _ => h.rmTouch
  | .imul3 _ _ _ => h.execImul3
  | .div _ _ | .idiv _ _ => h.rmTouch.divide
  | .rol _ _ _ | .ror _ _ _ | .rcl _ _ _ | .rcr _ _ _ | .shl _ _ _ | .shr _ _ _ | .sar _ _ _ => placeStore h.rmTouch
  | .shld _ _ _ | .shrd _ _ _ => placeStore h.rmTouch
  | .bt _ _ => h.placeTouch
  | .bts _ _ | .btr _ _ | .btc _ _ => placeStore h.placeTouch
  | .bsf _ _ | .bsr _ _ => h.rmTouch
  | .daa | .das | .aaa | .aas | .aad _ => h
  | .aam _ => h.execAam
  | .clc | .stc | .cmc | .cld | .std | .sahf => h
  | .mov _ => h.execMov
  | .movFromSeg _ _ => h.storeWord
  | .movToSeg _ _ => h.rmTouch.loadSeg fun _ hu => hu
  | .movFromCr _ _ | .movFromDr _ _ | .movToCr _ _ | .movToDr _ _ => h.requireCpl0 hpe hcpl
  | .movzx _ _ _ | .movsx _ _ _ => h.rmTouch
  | .lea _ _ | .cbw | .cwde | .cwd | .cdq | .lahf => h
  | .push _ => h.execPush
  | .pop _ => h.execPop
  | .popSeg _ => h.segTouch.loadSeg fun _ hu => hu
  | .pusha | .pushad => h.pushAll
  | .popa | .popad => h.popAll
  | .enter _ _ => h.execEnter
  | .leave => popReg h
  | .xchg _ => h.execXchg
  | .nop | .wait => h
  | .xlat => h.segTouch
  | .lds _ _ | .les _ _ | .lfs _ _ | .lgs _ _ | .lss _ _ => h.loadFar
  | .pushf | .pushfd => h.push
  | .popf | .popfd => h.popped
  | .seto _ | .setno _ | .setb _ | .setnb _ | .setz _ | .setnz _ | .setbe _ | .setnbe _ => h.placeStore
  | .sets _ | .setns _ | .setp _ | .setnp _ | .setl _ | .setnl _ | .setle _ | .setnle _ => h.placeStore
  | .jo _ | .jno _ | .jb _ | .jnb _ | .jz _ | .jnz _ | .jbe _ | .jnbe _ => h
  | .js _ | .jns _ | .jp _ | .jnp _ | .jl _ | .jnl _ | .jle _ | .jnle _ => h
  | .jmp _ | .jcxz _ | .loop _ | .loope _ | .loopne _ => h
  | .jmpRm _ => h.hooked h.rmTouch
  | .jmpFar _ => h.farJump
  | .jmpFarMem _ => h.farTouch.farJump
  | .call _ => h.push
  | .callRm _ => h.hooked h.rmTouch.push
  | .callFar _ => h.farCall
  | .callFarMem _ => h.farTouch.farCall
  | .ret | .retImm _ => h.popped
  | .retf | .retfImm _ => h.farReturn
  | .iret | .iretd => h.interruptReturn
  | .int _ | .int3 | .ud _ => h
  | .into => h.execInto
  | .bound _ _ => h.execBound
  | .movsb | .movsw | .movsd => h.repeated fun _ => movsBody
  | .cmpsb | .cmpsw | .cmpsd => h.repeated fun _ => cmpsBody
  | .scasb | .scasw | .scasd => h.repeated fun _ => scasBody
  | .lodsb | .lodsw | .lodsd => h.repeated fun _ => lodsBody
  | .stosb | .stosw | .stosd => h.repeated fun _ => stosBody
  | .insb | .insw | .insd => h.checkIopl (h.repeated fun _ => insBody)
  | .outsb | .outsw | .outsd => h.checkIopl (h.repeated fun _ => outsBody)
  | .inp _ _ | .outp _ _ | .cli | .sti => h.checkIopl h
  | .hlt | .lgdt _ | .lidt _ | .lmsw _ | .clts | .rdmsr | .wrmsr => h.requireCpl0 hpe hcpl
  | .arpl _ _ => h.execArpl
  | .sldt _ | .str _ => h.protectedOnly h.storeWord
  | .lldt _ | .ltr _ => h.protectedOnly (h.requireCpl0 hpe hcpl)
  | .sgdt _ | .sidt _ => h.storeTable
  | .smsw _ => h.execSmsw

end State.guarded

/-- Settles O14: what writes a system register or halts asks for level 0 first, and nothing else does either. -/
theorem userModeKeepsSystemRegisters : Obligations.UserModeKeepsSystemRegisters := by
  unfold Obligations.UserModeKeepsSystemRegisters
  intro i s t hhook hio hpe hcpl ht
  have hs : s.guarded s.sys s.ctl := ⟨hio, hhook, rfl, rfl⟩
  obtain ⟨-, -, hsys, hctl⟩ := answers_next (hs.exec hpe hcpl i) ht
  exact ⟨hsys, hctl⟩

end Sys2Proof.Machine

/-! PROOFS. The checks of privilege and mode that an instruction begins with, and ARPL (45_system R580, R587, R589,
60_exceptions R671, R672, 44_string_io R551). -/

namespace Sys2Proof.Machine

section Checks

variable {s : State} {i : Instr}

/-- What an instruction leaves that does no more than raise (60_exceptions R650, R651). -/
theorem completes_raised {x : Exn} (hi : exec i s = .next (s.raise x)) :
    completes i s fun t => s.raised t x.pending ∧ t.mem = s.mem := by
  refine ⟨_, hi, ⟨⟨rfl, rfl, rfl, rfl, rfl⟩, rfl, rfl, rfl, rfl, rfl, Memory.kept_refl _, rfl, rfl, ?_⟩, rfl⟩
  show some (s.intr.pending.getD x.pending) = _
  cases s.intr.pending <;> rfl

/-- An instruction that asks for level 0 outside it (45_system R580). -/
theorem completes_requireCpl0 {k : State → State} (hpe : s.pe = true) (hcpl : s.cpl ≠ 0)
    (hi : exec i s = .next (requireCpl0 s k)) :
    completes i s fun t => s.raised t ⟨13, .fault, true, true, 0⟩ ∧ t.mem = s.mem :=
  completes_raised (x := .gp 0) (hi.trans (congrArg _ (requireCpl0_fail k hpe hcpl)))

/-- An instruction that asks for I/O privilege at a level above IOPL (60_exceptions R672). -/
theorem completes_checkIopl {k : State → State} (hpe : s.pe = true) (hcpl : s.flags.iopl.toNat < s.cpl.toNat)
    (hi : exec i s = .next (checkIopl s k)) :
    completes i s fun t => s.raised t ⟨13, .fault, true, true, 0⟩ ∧ t.mem = s.mem :=
  completes_raised (x := .gp 0) (hi.trans (congrArg _ (checkIopl_fail k hpe hcpl)))

/-- An instruction of protected mode alone in real mode (45_system R589). -/
theorem completes_protectedOnly {k : State → State} (hpe : s.pe = false) (hi : exec i s = .next (protectedOnly s k)) :
    completes i s fun t => s.raised t ⟨6, .fault, false, true, 0⟩ ∧ t.mem = s.mem :=
  completes_raised (x := .ud) (hi.trans (congrArg _ (protectedOnly_fail k hpe)))

end Checks

/-- Settles O57: each of them is its check first, and what comes after it does not run. -/
theorem privilegedInstructionsTrap : Obligations.PrivilegedInstructionsTrap := by
  unfold Obligations.PrivilegedInstructionsTrap
  intro a b m rm w p s hpe
  simp only [List.forall_mem_cons, List.not_mem_nil, false_imp_iff, implies_true, and_true]
  refine ⟨fun hcpl => ?_, fun hiopl => ?_⟩
  · have htrap {i : Instr} {k : State → State} (hi : exec i s = .next (requireCpl0 s k)) :=
      completes_requireCpl0 hpe hcpl hi
    exact ⟨htrap rfl, htrap rfl, htrap rfl, htrap (congrArg _ (protectedOnly_pass _ hpe)),
      htrap (congrArg _ (protectedOnly_pass _ hpe)), htrap rfl, htrap rfl, htrap rfl, htrap rfl, htrap rfl, htrap rfl,
      htrap rfl, htrap rfl⟩
  · and_intros <;> exact completes_checkIopl hpe hiopl rfl

/-! ### ARPL -/

section Arpl

variable {s : State}

/-- The requested level of a selector (45_system R587). -/
theorem toNat_rpl (x : BitVec 16) : (x.extractLsb' 0 2).toNat = x.toNat % 4 := BitVec.extractLsb'_toNat ..

/-- In protected mode ARPL compares two requested levels (45_system R587). -/
theorem exec_arpl (h : s.paged = true) (hpe : s.pe = true) (rm : RM) (r : Num8) :
    exec (.arpl rm r) s = .next (
      if (s.rmVal .b16 rm).toNat % 4 < (s.regs.r16 r).toNat % 4 then
        ((s.rmTouch .b16 rm).placeStore .b16 (s.place rm)
          ((s.rmVal .b16 rm).extractLsb' 2 14 ++ (s.regs.r16 r).extractLsb' 0 2)).setZf true
      else (s.rmTouch .b16 rm).setZf false) := by
  rw [← toNat_rpl, ← toNat_rpl, ← rmTouch_regs (w := .b16) (rm := rm) h]
  exact congrArg _ (protectedOnly_pass _ hpe)

/-- A selector with its requested level replaced (45_system R587). -/
theorem toNat_withRpl (d x : BitVec 16) :
    (d.extractLsb' 2 14 ++ x.extractLsb' 0 2).toNat = d.toNat / 4 * 4 + x.toNat % 4 := by
  have := d.isLt
  rw [toNat_append_add, toNat_rpl, BitVec.extractLsb'_toNat, Nat.shiftRight_eq_div_pow]
  omega

end Arpl

/-- Settles O58: in real mode the check raises; in protected mode ARPL is a comparison, and a store where it holds. -/
theorem protectedModeOnlyInstructions : Obligations.ProtectedModeOnlyInstructions := by
  unfold Obligations.ProtectedModeOnlyInstructions
  intro rm r s h d x
  have hu := rmTouch_only h .b16 rm
  have hflags := rmTouch_flags (w := .b16) (rm := rm) h
  refine ⟨fun hpe => ?_, fun hpe hlt => ?_, fun hpe hle => ?_⟩
  · simp only [List.forall_mem_cons, List.not_mem_nil, false_imp_iff, implies_true, and_true]
    and_intros <;> exact completes_protectedOnly hpe rfl
  · have hexec := (exec_arpl h hpe rm r).trans (congrArg _ (if_pos hlt))
    obtain ⟨hsame, hf⟩ := onlyData_leaves (onlyData_trans (onlyTouched_onlyData hu)
      (placeStore_onlyData (onlyTouched_paged h hu) (w := .b16) (s.place rm) (d.extractLsb' 2 14 ++ x.extractLsb' 0 2)))
    exact ⟨_, hexec, _, hsame, congrArg (fun f : Eflags => { f with zf := true }) hf, placeStore_wrote h hu .b16 _ _,
      toNat_withRpl d x⟩
  · have hexec := (exec_arpl h hpe rm r).trans (congrArg _ (if_neg (Nat.not_lt.2 hle)))
    obtain ⟨hsame, hregs, hmem⟩ := setFlags_leaves (f := { (s.rmTouch .b16 rm).flags with zf := false }) hu
    exact ⟨_, hexec, hsame, congrArg (fun f : Eflags => { f with zf := false }) hflags, hregs, hmem⟩

end Sys2Proof.Machine

/-! PROOFS. The system registers at level 0: what LLDT and LTR look up and load, table, control and debug registers and
model-specific registers (45_system R592, R593, R596 to R608). -/

namespace Sys2Proof.Machine

/-! ### The descriptor that LLDT and LTR look up -/

section Lookup

variable {s u : State} {types : List (BitVec 4)} {sel : BitVec 16}

/-- Reads keep what a lookup comes to. -/
theorem sysLoad_of_onlyTouched (h : s.paged = true) (hu : s.onlyTouched u) (types : List (BitVec 4)) (sel : BitVec 16) :
    u.sysLoad types sel = s.sysLoad types sel := by
  have hp := onlyTouched_paged h hu
  obtain ⟨m, rfl, hkept, -⟩ := hu
  have hdesc : ∀ a, (s.setMem m).descriptor a = s.descriptor a := fun a => by
    rw [descriptor_paged hp, descriptor_paged h]
    simp only [State.setMem_mem, Memory.val_of_kept hkept]
  have hvalid : ∀ a, (s.setMem m).descValid a = s.descValid a := fun a => by
    rw [descValid_eq hp, descValid_eq h]
    simp only [State.setMem_mem, funext (Memory.permitted_of_kept hkept .read)]
  unfold State.sysLoad
  simp only [hdesc, hvalid]
  rfl

theorem sysLoad_ldt (hldt : sel.getLsbD 2 = true) : s.sysLoad types sel = none := by
  unfold State.sysLoad
  exact if_pos hldt

/-- A descriptor outside the GDT (45_system R592, R593). -/
theorem sysLoad_outside (hout : s.sys.gdtr.limit.toNat < sel.toNat / 8 * 8 + 7) : s.sysLoad types sel = none := by
  obtain ⟨-, hlimit⟩ := tableOf_eq s sel
  by_cases hldt : sel.getLsbD 2 = true
  · exact sysLoad_ldt hldt
  rw [if_neg hldt] at hlimit
  simp [State.sysLoad, descAddr_eq, hlimit, hout]

/-- Inside the GDT its descriptor decides. -/
theorem sysLoad_inside (hgdt : sel.getLsbD 2 = false) (hin : sel.toNat / 8 * 8 + 7 ≤ s.sys.gdtr.limit.toNat) {a : Word}
    (ha : s.sys.gdtr.base + BitVec.ofNat 32 (sel.toNat / 8 * 8) = a) :
    s.sysLoad types sel =
      if s.descValid a && (s.descriptor a).present && !(s.descriptor a).isSegment &&
          types.contains (s.descriptor a).type then
        some ((s.descriptor a).segReg sel)
      else none := by
  obtain ⟨hbase, hlimit⟩ := tableOf_eq s sel
  rw [if_neg (Bool.eq_false_iff.1 hgdt)] at hbase hlimit
  unfold State.sysLoad
  rw [if_neg (Bool.eq_false_iff.1 hgdt), descAddr_eq, hlimit, hbase, if_neg (Nat.not_lt.2 hin), ha]

theorem sysLoad_unreadable (h : s.paged = true) {a : Word}
    (ha : s.sys.gdtr.base + BitVec.ofNat 32 (sel.toNat / 8 * 8) = a)
    (hread : ∃ b ∈ span 8 a, s.mem.permitted .read b = false) : s.sysLoad types sel = none := by
  by_cases hldt : sel.getLsbD 2 = true
  · exact sysLoad_ldt hldt
  by_cases hout : s.sys.gdtr.limit.toNat < sel.toNat / 8 * 8 + 7
  · exact sysLoad_outside hout
  have hvalid : s.descValid a = false := by simpa [descValid_eq h] using hread
  rw [sysLoad_inside (by simpa using hldt) (Nat.not_lt.1 hout) ha, hvalid]
  rfl

/-- The class and type bits of a system descriptor as a number (20_memory R133). -/
theorem isSystemOf_iff (b5 : Byte) (types : List (BitVec 4)) :
    (!b5.getLsbD 4 && types.contains (b5.extractLsb' 0 4)) = true ↔ ∃ k ∈ types, b5.toNat % 32 = k.toNat := by
  have hbit : b5.getLsbD 4 = decide (b5.toNat / 16 % 2 = 1) := by
    rw [BitVec.getLsbD, Nat.testBit_eq_decide_div_mod_eq]
  have htype : (b5.extractLsb' 0 4).toNat = b5.toNat % 16 := BitVec.extractLsb'_toNat ..
  rw [Bool.and_eq_true, Bool.not_eq_true', hbit, decide_eq_false_iff_not, List.contains_iff_mem]
  constructor
  · rintro ⟨hsys, hmem⟩
    exact ⟨_, hmem, by omega⟩
  · rintro ⟨k, hmem, hk⟩
    have hlt := k.isLt
    have heq : b5.extractLsb' 0 4 = k := BitVec.eq_of_toNat_eq (by omega)
    exact ⟨by omega, heq ▸ hmem⟩

/-- A readable descriptor of the GDT decides by its present bit, its class and its type (45_system R592, R593). -/
theorem sysLoad_holds (h : s.paged = true) (hgdt : sel.getLsbD 2 = false)
    (hin : sel.toNat / 8 * 8 + 7 ≤ s.sys.gdtr.limit.toNat) {b0 b1 b2 b3 b4 b5 b6 b7 : Byte}
    (hb : s.mem.holds (s.sys.gdtr.base + BitVec.ofNat 32 (sel.toNat / 8 * 8)) [b0, b1, b2, b3, b4, b5, b6, b7]) :
    s.sysLoad types sel =
      if b5.getLsbD 7 = true ∧ ∃ k ∈ types, b5.toNat % 32 = k.toNat then
        some (segOfBytes sel b0 b1 b2 b3 b4 b5 b6 b7)
      else none := by
  rw [sysLoad_inside hgdt hin rfl]
  generalize s.sys.gdtr.base + BitVec.ofNat 32 (sel.toNat / 8 * 8) = a at hb
  have hread : ∀ b ∈ span 8 a, s.mem.permitted .read b = true := fun b hmem => by
    obtain ⟨k, hk, rfl⟩ := mem_span.1 hmem
    exact (Memory.holds_getElem hb hk).1
  have hbyte := fun (k : Nat) (hk : k < 8) => (Memory.holds_getElem hb hk).2
  have hseg : (s.descriptor a).segReg sel = segOfBytes sel b0 b1 b2 b3 b4 b5 b6 b7 := by
    rw [segReg_descriptor h sel hread]
    simp only [hbyte 0 (by decide), hbyte 1 (by decide), hbyte 2 (by decide), hbyte 3 (by decide),
      hbyte 4 (by decide), hbyte 5 (by decide), hbyte 6 (by decide), hbyte 7 (by decide)]
    rfl
  obtain ⟨hpresent, hsegment⟩ := present_isSegment_eq hseg
  have htype : (s.descriptor a).type = b5.extractLsb' 0 4 := by
    have hacc : (s.descriptor a).acc = b6.extractLsb' 4 4 ++ b5 := congrArg SegReg.acc hseg
    apply BitVec.eq_of_toNat_eq
    simp only [Descriptor.type, hacc, BitVec.extractLsb'_toNat, toNat_append_add]
    omega
  rw [descValid_eq h, List.all_eq_true.2 hread, hpresent, hsegment, htype, hseg, Bool.true_and, Bool.and_assoc]
  simp only [Bool.and_eq_true (b5.getLsbD 7), isSystemOf_iff]

end Lookup

/-! ### LLDT and LTR -/

/-- What LLDT and LTR have in common: read the selector; where it is null `null` of it happens, else a descriptor of one
of `types` is looked up, and `put` writes its record or #GP with the selector is raised (45_system R592, R593). -/
def loadSystem (null : BitVec 16 → State → State) (types : List (BitVec 4)) (put : Sys → SegReg → Sys) (rm : RM)
    (s : State) : State :=
  let sel := s.rmVal .b16 rm
  let u := s.rmTouch .b16 rm
  let v := u.sysLoadTouch sel
  if isNullSel sel then null sel u
  else
    match u.sysLoad types sel with
    | some g => v.setSys (put v.sys g)
    | none => v.raise (.gp (sel.setWidth 32))

/-- After reads, a write of the system registers alone. -/
theorem setSys_leaves {s u : State} (hu : s.onlyTouched u) (y : Sys) :
    (u.setSys y).sys = y ∧ (u.setSys y).regs = s.regs ∧ (u.setSys y).eip = s.eip ∧ (u.setSys y).flags = s.flags ∧
      (u.setSys y).segs = s.segs ∧ (u.setSys y).intr = s.intr ∧ (u.setSys y).pfx = s.pfx ∧ (u.setSys y).ctl = s.ctl ∧
      (u.setSys y).ports = s.ports ∧ (u.setSys y).cfg = s.cfg ∧ s.mem.kept (u.setSys y).mem := by
  obtain ⟨m, rfl, hkept, -⟩ := hu
  exact ⟨rfl, rfl, rfl, rfl, rfl, rfl, rfl, rfl, rfl, rfl, hkept⟩

theorem onlyTouched_sys {s u : State} (hu : s.onlyTouched u) : u.sys = s.sys := by
  obtain ⟨m, rfl, -⟩ := hu
  rfl

section Load

variable {s : State} {null : BitVec 16 → State → State} {types : List (BitVec 4)} {put : Sys → SegReg → Sys} {rm : RM}

theorem exec_lldt (hpe : s.pe = true) (hcpl : s.cpl = 0) (rm : RM) : exec (.lldt rm) s = .next
    (loadSystem (fun sel u => u.setLdtr ⟨sel, 0, 0, 0⟩) [0x2] (fun y g => { y with ldtr := g }) rm s) := by
  rw [← requireCpl0_pass (loadSystem _ _ _ rm) (.inr hcpl)]
  exact congrArg _ (protectedOnly_pass _ hpe)

theorem exec_ltr (hpe : s.pe = true) (hcpl : s.cpl = 0) (rm : RM) : exec (.ltr rm) s = .next
    (loadSystem (fun sel u => u.raise (.gp (sel.setWidth 32))) [0x1, 0x9] (fun y g => { y with tr := g }) rm s) := by
  rw [← requireCpl0_pass (loadSystem _ _ _ rm) (.inr hcpl)]
  exact congrArg _ (protectedOnly_pass _ hpe)

theorem loadSystem_null (hnull : (s.rmVal .b16 rm).toNat < 4) :
    loadSystem null types put rm s = null (s.rmVal .b16 rm) (s.rmTouch .b16 rm) :=
  if_pos ((isNullSel_eq _).trans (decide_eq_true hnull))

variable (h : s.paged = true) (hsel : 4 ≤ (s.rmVal .b16 rm).toNat)

include h hsel

/-- After the reads of a selector that is not null, what is looked up decides. -/
theorem loadSystem_lookup : ∃ u, s.onlyTouched u ∧
    (∀ g, s.sysLoad types (s.rmVal .b16 rm) = some g →
      loadSystem null types put rm s = u.setSys (put s.sys g)) ∧
    (s.sysLoad types (s.rmVal .b16 rm) = none →
      loadSystem null types put rm s = u.raise (.gp ((s.rmVal .b16 rm).setWidth 32))) := by
  have hu := rmTouch_only h .b16 rm
  have hv := onlyTouched_trans hu (sysLoadTouch_only (onlyTouched_paged h hu) (s.rmVal .b16 rm))
  have hnull : ¬isNullSel (s.rmVal .b16 rm) = true := by simpa [isNullSel_eq] using hsel
  refine ⟨_, hv, ?_⟩
  rw [← sysLoad_of_onlyTouched h hu, ← onlyTouched_sys hv]
  constructor
  · intro g hg
    exact (if_neg hnull).trans (by rw [hg])
  · intro hg
    exact (if_neg hnull).trans (by rw [hg])

end Load

/-- Settles O59: for each of the two what `sysLoad` looks up decides. -/
theorem systemSegmentLoads : Obligations.SystemSegmentLoads := by
  unfold Obligations.SystemSegmentLoads
  intro rm s h hpe hcpl sel offset limit a changed refused
  have hread := rmTouch_only h .b16 rm
  have hraised {i : Instr} {t u : State} (hi : exec i s = .next t) (hu : s.onlyTouched u)
      (ht : t = u.raise (.gp (sel.setWidth 32))) : refused i :=
    ⟨_, hi, ht ▸ raised_of_onlyTouched hu (.gp (sel.setWidth 32))⟩
  have hrefused {i : Instr} {null types put} (hi : exec i s = .next (loadSystem null types put rm s))
      (hsel : 4 ≤ sel.toNat) (hnone : s.sysLoad types sel = none) : refused i := by
    obtain ⟨u, hu, -, ht⟩ := loadSystem_lookup (null := null) (types := types) (put := put) h hsel
    exact hraised hi hu (ht hnone)
  have hloaded {i : Instr} {null types put g} (hi : exec i s = .next (loadSystem null types put rm s))
      (hsel : 4 ≤ sel.toNat) (hsome : s.sysLoad types sel = some g) :
      completes i s fun t => changed t (put s.sys g) := by
    obtain ⟨u, hu, ht, -⟩ := loadSystem_lookup (null := null) (types := types) (put := put) h hsel
    exact ⟨_, hi, ht g hsome ▸ setSys_leaves hu (put s.sys g)⟩
  have hlldt := exec_lldt hpe hcpl rm
  have hltr := exec_ltr hpe hcpl rm
  refine ⟨fun hnull => ?_, fun hnull => hraised hltr hread (loadSystem_null hnull), fun hsel hbad => ?_,
    fun hsel hgdt hin b0 b1 b2 b3 b4 b5 b6 b7 hb => ?_⟩
  · rw [loadSystem_null hnull, State.setLdtr, onlyTouched_sys hread] at hlldt
    exact ⟨_, hlldt, setSys_leaves hread _⟩
  · have hnone (types : List (BitVec 4)) : s.sysLoad types sel = none := by
      rcases hbad with hldt | hout | hunreadable
      · exact sysLoad_ldt hldt
      · exact sysLoad_outside hout
      · exact sysLoad_unreadable h rfl hunreadable
    exact ⟨hrefused hlldt hsel (hnone _), hrefused hltr hsel (hnone _)⟩
  · intro g kind present
    have hlookup (types : List (BitVec 4)) := sysLoad_holds (types := types) h hgdt hin hb
    have hldt : s.sysLoad [0x2] sel = if present = true ∧ kind = 0x2 then some g else none := by
      simp [hlookup, present, kind, g]
    have htss : s.sysLoad [0x1, 0x9] sel = if present = true ∧ (kind = 0x1 ∨ kind = 0x9) then some g else none := by
      simp [hlookup, present, kind, g]
    exact ⟨fun hp hk => hloaded hlldt hsel (hldt.trans (if_pos ⟨hp, hk⟩)),
      fun hno => hrefused hlldt hsel (hldt.trans (if_neg (not_and_or.2 (hno.imp_left Bool.eq_false_iff.1)))),
      fun hp hk => hloaded hltr hsel (htss.trans (if_pos ⟨hp, hk⟩)),
      fun hno => hrefused hltr hsel (htss.trans (if_neg (not_and_or.2 (hno.imp Bool.eq_false_iff.1 not_or.2))))⟩

/-! ### Table, control and model-specific registers -/

section Registers

variable {s : State}

/-- The table register that a memory operand holds, in the paged memory (45_system R596). -/
theorem tableVal_eq (h : s.paged = true) (m : MemRef) :
    let base := (s.segs.get (s.eaSeg m)).base
    let raw := s.mem.val .b32 (base + s.eaNext m 2)
    s.tableVal m =
      ⟨match s.osz with | .s16 => raw &&& 0x00FFFFFF | .s32 => raw, s.mem.val .b16 (base + s.eaNext m 0)⟩ := by
  intro base raw
  have hio := State.paged_io h
  have hraw : (s.eaTouch .b16 m 0).placeVal .b32 (s.eaPlace m 2) = raw :=
    (placeVal_of_onlyTouched h (placeTouch_only h _ _) _ _).trans (eaVal_paged hio .b32 m 2)
  have hlimit : s.eaVal .b16 m 0 = s.mem.val .b16 (base + s.eaNext m 0) := eaVal_paged hio .b16 m 0
  rw [← hraw, ← hlimit]
  rfl

theorem tableTouch_only (h : s.paged = true) (m : MemRef) : s.onlyTouched (s.tableTouch m) :=
  have h1 := placeTouch_only h .b16 (s.eaPlace m 0)
  onlyTouched_trans h1 (placeTouch_only (onlyTouched_paged h h1) _ _)

theorem Eflags.sameControl_allFree (f : Eflags) (draw : Nat) : f.sameControl (f.allFree draw) :=
  ⟨rfl, rfl, rfl, rfl, rfl⟩

/-- The word that LMSW writes to CR0, which holds `c`, for the operand `v` (45_system R605). -/
def lmswWord (c : Word) (v : BitVec 16) : Word :=
  c.extractLsb' 4 28 ++ v.extractLsb' 1 3 ++ (c.extractLsb' 0 1 ||| v.extractLsb' 0 1)

/-- Bits 3:1 are the operand's, bit 0 stays set (45_system R605). -/
theorem getLsbD_lmswWord (c : Word) (v : BitVec 16) {k : Nat} (hk : k < 32) :
    (lmswWord c v).getLsbD k =
      (if k = 0 then c.getLsbD 0 || v.getLsbD 0 else if k ≤ 3 then v.getLsbD k else c.getLsbD k) := by
  rw [lmswWord, BitVec.getLsbD_append, BitVec.getLsbD_append]
  by_cases h0 : k = 0
  · subst h0
    simp
  rw [if_neg h0, if_neg (by omega)]
  by_cases h3 : k ≤ 3
  · rw [if_pos h3, if_pos (by omega), BitVec.getLsbD_extractLsb', show 1 + (k - 1) = k by omega]
    simp [show k - 1 < 3 by omega]
  · rw [if_neg h3, if_neg (by omega), BitVec.getLsbD_extractLsb', show 4 + (k - 1 - 3) = k by omega]
    simp [show k - 1 - 3 < 28 by omega]

/-- CLTS clears bit 3 alone (45_system R606). -/
theorem getLsbD_cltsWord (c : Word) (k : Nat) :
    (c &&& 0xFFFFFFF7).getLsbD k = (c.getLsbD k && decide (k ≠ 3)) := by
  rw [BitVec.getLsbD_and]
  by_cases hk : k < 32
  · have hmask : ∀ j < 32, (0xFFFFFFF7 : Word).getLsbD j = decide (j ≠ 3) := by decide
    rw [hmask k hk]
  · rw [BitVec.getLsbD_of_ge c k (Nat.not_lt.1 hk), Bool.false_and, Bool.false_and]

/-- A 64-bit register as its two halves (45_system R607). -/
theorem append_halves (x : BitVec 64) : x.extractLsb' 32 32 ++ x.extractLsb' 0 32 = x := by
  apply BitVec.eq_of_toNat_eq
  simp only [toNat_append_add, BitVec.extractLsb'_toNat, Nat.shiftRight_eq_div_pow]
  omega

/-- A write of one model-specific register (10_state R58). -/
theorem Sys.get_setMsr {y : Sys} (h : y.wf = true) (i k : Word) (v : BitVec 64) :
    Sparse.get 0 (y.setMsr i v).msr k.toNat = if k = i then v else Sparse.get 0 y.msr k.toNat := by
  simp only [Sys.wf, Sparse.wf, Bool.and_eq_true] at h
  simp only [Sys.setMsr, Sparse.get_set h.1, BitVec.toNat_inj]

end Registers

/-- Settles O60: where the check of level 0 passes, each is reads, then one write. -/
theorem systemRegisterInstructions : Obligations.SystemRegisterInstructions := by
  unfold Obligations.SystemRegisterInstructions
  intro a b m rm s h hwf hcpl base raw table changed same perm
  have hself := onlyTouched_refl h
  have htouch := tableTouch_only h m
  have htable : s.tableVal m = table := tableVal_eq h m
  have hpass {i : Instr} {k : State → State} {t : State} (hi : exec i s = .next (requireCpl0 s k)) (ht : k s = t) :
      exec i s = .next t := hi.trans (congrArg _ ((requireCpl0_pass k hcpl).trans ht))
  have hwrites {i : Instr} {u : State} (y : Sys → Sys) (hu : s.onlyTouched u)
      (hi : exec i s = .next (u.setSys (y u.sys))) : completes i s fun t => changed t (y s.sys) ∧ same t := by
    rw [onlyTouched_sys hu] at hi
    obtain ⟨hsys, hregs, heip, hflags, hrest⟩ := setSys_leaves hu (y s.sys)
    exact ⟨_, hi, ⟨hsys, heip, hrest⟩, hregs, hflags⟩
  have hfree {i : Instr} {y : Sys} {bank : Bank}
      (hi : exec i s = .next ((((s.setSys y).setRegs bank).setFlags (s.flags.allFree s.draws)).drew)) :
      completes i s fun t => changed t y ∧ t.regs = bank ∧ s.flags.sameControl t.flags :=
    ⟨_, hi, ⟨rfl, rfl, rfl, rfl, rfl, rfl, rfl, rfl, Memory.kept_refl _⟩, rfl, Eflags.sameControl_allFree _ _⟩
  have hrdmsr : exec .rdmsr s = .next (if perm.getLsbD 0 then
      (s.setReg .b32 .n0 ((s.sys.msrAt s.regs.r1).extractLsb' 0 32)).setReg .b32 .n2
        ((s.sys.msrAt s.regs.r1).extractLsb' 32 32) else s.raise (.gp 0)) := hpass rfl rfl
  have hwrmsr : exec .wrmsr s = .next (if perm.getLsbD 1 then
      s.setSys (s.sys.setMsr s.regs.r1 (s.regs.r2 ++ s.regs.r0)) else s.raise (.gp 0)) := hpass rfl rfl
  have hraised {i : Instr} (hi : exec i s = .next (s.raise (.gp 0))) :
      completes i s fun t => s.raised t ⟨13, .fault, true, true, 0⟩ := ⟨_, hi, raised_of_onlyTouched hself (.gp 0)⟩
  refine ⟨?_, ?_, hfree (hpass rfl rfl), hfree (hpass rfl rfl), hfree (hpass rfl rfl), hfree (hpass rfl rfl), ?_, ?_,
    fun hp => ?_, fun hp => hraised (hrdmsr.trans (congrArg _ (if_neg (Bool.eq_false_iff.1 hp)))),
    fun hp => ?_, fun hp => hraised (hwrmsr.trans (congrArg _ (if_neg (Bool.eq_false_iff.1 hp))))⟩
  · rw [← htable]
    exact hwrites (fun y => { y with gdtr := s.tableVal m }) htouch (hpass rfl rfl)
  · rw [← htable]
    exact hwrites (fun y => { y with idtr := s.tableVal m }) htouch (hpass rfl rfl)
  · have hlmsw := hwrites (i := .lmsw rm) (fun y => { y with cr := y.cr.set .n0 (lmswWord y.cr.r0 (s.rmVal .b16 rm)) })
      (rmTouch_only h .b16 rm) (hpass rfl rfl)
    exact completes_mono hlmsw fun t ⟨hsys, hsame⟩ => ⟨_, hsys, hsame, fun k => getLsbD_lmswWord _ _⟩
  · have hclts := hwrites (i := .clts) (fun y => { y with cr := y.cr.set .n0 (y.cr.r0 &&& 0xFFFFFFF7) }) hself
      (hpass rfl rfl)
    exact completes_mono hclts fun t ⟨hsys, hsame⟩ => ⟨_, hsys, hsame, getLsbD_cltsWord _⟩
  · exact ⟨_, hrdmsr.trans (congrArg _ (if_pos hp)), _, _,
      ⟨rfl, rfl, rfl, rfl, rfl, rfl, rfl, rfl, Memory.kept_refl _⟩, rfl, append_halves _, rfl⟩
  · exact ⟨_, hwrmsr.trans (congrArg _ (if_pos hp)), ⟨rfl, rfl⟩,
      ⟨rfl, rfl, rfl, rfl, rfl, rfl, rfl, rfl, Memory.kept_refl _⟩, fun k => Sys.get_setMsr hwf _ k _⟩

end Sys2Proof.Machine

/-! PROOFS. The cycle outside the meanings (60_exceptions R652, R681 to R688): a step runs the instruction decoded at
CS:EIP, what ends a run before that, and which of two raises counts. -/

namespace Sys2Proof.Machine

/-- Settles O1: it is the statement on prefixes, of none at all. -/
theorem stepRunsDecodedInstruction : Obligations.StepRunsDecodedInstruction := by
  unfold Obligations.StepRunsDecodedInstruction
  intro s u i rest hpaged hrun hpend hhalt hstop hmax hcheck hd hi hreason hle
  obtain ⟨hexecuted, -⟩ :=
    stepAppliesPrefixesThenInstruction s u _ [] i rest hpaged hrun hpend hhalt hstop hmax hcheck rfl hd
  simp only [List.length_nil, Nat.zero_add] at hexecuted
  exact hexecuted hi hreason hle

/-- Settles O17: the first raise fills the slot, and a raise leaves a full slot as it is. -/
theorem firstRaiseWins : Obligations.FirstRaiseWins := by
  unfold Obligations.FirstRaiseWins
  intro s hempty
  have hfirst : (s.hostRaise 3 .software none).intr.pending = some ⟨3, .software, false, false, 0⟩ :=
    post_empty _ hempty
  have hsecond : (s.hostRaise 3 .software none).hostRaise 6 .fault none = s.hostRaise 3 .software none := by
    rw [State.hostRaise, State.post, hfirst, Option.getD_some, ← hfirst]
    rfl
  exact ⟨hsecond ▸ hfirst, hsecond⟩

/-! ### What ends a run -/

section Cycle

variable {s : State}

/-- With a run in progress a step is delivery and what comes after it (60_exceptions R681). -/
theorem step_running (hrun : s.ctl.running = true) : step s = s.deliver.afterDelivery := if_pos hrun

/-- A halted core ends the run (60_exceptions R681 step 2). -/
theorem afterDelivery_halted (hhalt : s.ctl.halted = true) :
    s.afterDelivery = .next { s with ctl := { s.ctl with running := false } } := if_pos hhalt

/-- A reason to stop ends the run (60_exceptions R681 step 3). -/
theorem afterDelivery_stopped (hhalt : s.ctl.halted = false) (hstop : s.stopBits ≠ 0) :
    s.afterDelivery = .next { s with
      draws := s.draws + 1
      ctl := { s.ctl with reason := s.stopBits, running := false } } := by
  rw [State.afterDelivery, hhalt, if_neg Bool.false_ne_true, if_pos hstop]
  rfl

/-- The code check ends the run (60_exceptions R681 step 4). -/
theorem afterDelivery_checked {u : State} (hhalt : s.ctl.halted = false) (hstop : s.stopBits = 0)
    (hcheck : s.askCheck = (true, u)) :
    s.afterDelivery = .next { u with
      draws := u.draws + 1
      ctl := { u.ctl with reason := u.ctl.reason ||| 0x40, running := false } } := by
  rw [State.afterDelivery, hhalt, if_neg Bool.false_ne_true, if_neg (not_not_intro hstop), hcheck]
  rfl

/-- A mask that a condition sets, bit by bit. -/
theorem getLsbD_ite_zero (c : Bool) (v : BitVec 8) (k : Nat) :
    (if c = true then v else 0).getLsbD k = (c && v.getLsbD k) := by
  cases c <;> simp

/-- The reasons of the termination checks, bit by bit (60_exceptions R682, R686). -/
theorem getLsbD_stopBits (s : State) (k : Nat) :
    k < 8 → s.stopBits.getLsbD k = (s.ctl.reason.getLsbD k || (match k with
      | 0 => s.cfg.runFlags.getLsbD 0 && Config.timeoutExpired s.draws
      | 1 => s.cfg.runFlags.getLsbD 1 && decide (s.cfg.maxInstr ≤ s.ctl.icount)
      | 3 => s.cfg.runFlags.getLsbD 3 && s.cfg.tightLoop && Config.tightLoop s
      | _ => false)) := by
  intro hk
  rw [State.stopBits, State.limitBits, BitVec.getLsbD_or, BitVec.getLsbD_or, BitVec.getLsbD_or, getLsbD_ite_zero,
    getLsbD_ite_zero, getLsbD_ite_zero]
  interval_cases k <;> simp [reasonMaxInstr, reasonTimeout, reasonTightLoop]

end Cycle

/-- Settles O16: the steps of the cycle in turn; the refused fetch is the statement on prefixes, of none at all. -/
theorem whatEndsARun : Obligations.WhatEndsARun := by
  unfold Obligations.WhatEndsARun
  intro s
  have hempty (hrun : s.ctl.running = true) (hpend : s.intr.pending = none) : step s = s.afterDelivery := by
    rw [step_running hrun, deliver_empty hpend]
  refine ⟨fun hrun hpend hhalt => (hempty hrun hpend).trans (afterDelivery_halted hhalt),
    fun hrun hpend hhalt hstop => (hempty hrun hpend).trans (afterDelivery_stopped hhalt hstop),
    getLsbD_stopBits s, askCheck_none, fun hc => ?_,
    fun u i rest k b hpaged hrun hpend hhalt hstop hmax hcheck hd => ?_, fun hrun => if_neg (by simp [hrun])⟩
  · have hask : s.askCheck = ((Config.codeCheck s).1, s.resume (Config.codeCheck s).2) := if_pos hc
    refine ⟨hask, fun hrun hpend hhalt hstop hyes => (hempty hrun hpend).trans ?_⟩
    rw [hyes] at hask
    rw [afterDelivery_checked hhalt hstop hask, resume_draws]
  · obtain ⟨-, hrefused⟩ :=
      stepAppliesPrefixesThenInstruction s u _ [] i rest hpaged hrun hpend hhalt hstop hmax hcheck rfl hd
    simp only [List.length_nil, Nat.zero_add] at hrefused
    exact hrefused k b (Nat.zero_le k)

end Sys2Proof.Machine

/-! PROOFS. Delivery (60_exceptions R660 to R665): what the lookup of the handler comes to in both modes, then a failed one,
the frame pushed by one that succeeds, and the load of CS that decides. -/

namespace Sys2Proof.Machine

/-! ### The lookup of the handler (60_exceptions R662, R663) -/

/-- Bytes that memory holds may all be read. -/
theorem Memory.holds_permitted {m : Memory} {a : Word} {l : List Byte} {n : Nat} (hb : m.holds a l) (hn : l.length = n) :
    (span n a).all (m.permitted .read) = true := by
  subst hn
  refine List.all_eq_true.2 fun b hmem => ?_
  obtain ⟨k, hk, rfl⟩ := mem_span.1 hmem
  exact (Memory.holds_getElem hb hk).1

/-- The address of a vector's entry in the real-mode table. -/
theorem vectorAddr_eq (s : State) (v : Byte) : s.vectorAddr v = s.sys.idtr.base + BitVec.ofNat 32 (4 * v.toNat) := by
  refine congrArg (s.sys.idtr.base + ·) (BitVec.eq_of_toNat_eq ?_)
  have := v.isLt
  simp only [toNat_append_add, BitVec.toNat_ofNat]
  omega

/-- The address of a vector's gate, inside the table. -/
theorem gateAddr_eq (s : State) (v : Byte) :
    s.gateAddr v = if s.sys.idtr.limit.toNat < 8 * v.toNat + 7 then none
      else some (s.sys.idtr.base + BitVec.ofNat 32 (8 * v.toNat)) := by
  have hoff : (0#21 ++ v ++ 0#3 : Word) = BitVec.ofNat 32 (8 * v.toNat) := by
    apply BitVec.eq_of_toNat_eq
    have := v.isLt
    simp only [toNat_append_add, BitVec.toNat_ofNat]
    omega
  rw [State.gateAddr, hoff]

section Lookup

variable {s : State} {v : Byte} {a : Word}

/-- In real mode the entry decides, where its four bytes may be read (60_exceptions R662). -/
theorem target_real (h : s.paged = true) (hpe : s.pe = false)
    (ha : s.sys.idtr.base + BitVec.ofNat 32 (4 * v.toNat) = a) :
    s.target v = if (span 4 a).all (s.mem.permitted .read) = true then
      some (s.mem.val .b16 (a + 2), (s.mem.val .b16 a).setWidth 32) else none := by
  have hio := State.paged_io h
  have hwf := State.paged_wf h
  have hok : (span 4 a).all (s.mem.permitted .read) = (s.mem.ok .b16 a && s.mem.ok .b16 (a + 2)) := by
    rw [span_add 2 2, List.all_append]
    rfl
  have htouched : (s.setMem (s.mem.touchRead .b16 a)).io = none := hio
  rw [hok, State.target, if_pos (by simp [hpe]), vectorAddr_eq, ha]
  simp only [memTouch_paged hio, memOk_paged hio, memVal_paged hio, memOk_paged htouched, memVal_paged htouched,
    State.setMem_mem, Memory.ok_touchRead hwf, Memory.val_touchRead hwf]

theorem target_real_unreadable (h : s.paged = true) (hpe : s.pe = false)
    (ha : s.sys.idtr.base + BitVec.ofNat 32 (4 * v.toNat) = a)
    (hread : ∃ b ∈ span 4 a, s.mem.permitted .read b = false) : s.target v = none := by
  rw [target_real h hpe ha]
  exact if_neg (by simpa using hread)

/-- A real-mode entry that may be read (60_exceptions R662). -/
theorem target_real_holds {o0 o1 s0 s1 : Byte} (h : s.paged = true) (hpe : s.pe = false)
    (ha : s.sys.idtr.base + BitVec.ofNat 32 (4 * v.toNat) = a) (hb : s.mem.holds a [o0, o1, s0, s1]) :
    s.target v = some (s1 ++ s0, (o1 ++ o0 : BitVec 16).setWidth 32) := by
  have hbyte : ∀ k, (hk : k < 4) → s.mem.readByte (a + BitVec.ofNat 32 k) = [o0, o1, s0, s1][k] := fun k hk => by
    obtain ⟨hread, hdata⟩ := Memory.holds_getElem hb hk
    exact (if_pos hread).trans hdata
  have h0 := hbyte 0 (by decide)
  rw [show a + BitVec.ofNat 32 0 = a from BitVec.add_zero a] at h0
  have hlow : s.mem.val .b16 a = o1 ++ o0 := congrArg₂ (· ++ ·) (hbyte 1 (by decide)) h0
  have hhigh : s.mem.val .b16 (a + 2) = s1 ++ s0 := by
    rw [Memory.val, BitVec.add_assoc]
    exact congrArg₂ (· ++ ·) (hbyte 3 (by decide)) (hbyte 2 (by decide))
  rw [target_real h hpe ha, Memory.holds_permitted (n := 4) hb rfl, if_pos rfl, hhigh, hlow]

/-- A gate outside the table (60_exceptions R663). -/
theorem target_outside (hpe : s.pe = true) (hout : s.sys.idtr.limit.toNat < 8 * v.toNat + 7) : s.target v = none := by
  rw [State.target, if_neg (by simp [hpe]), gateAddr_eq, if_pos hout]

/-- In protected mode the gate inside the table decides (60_exceptions R663). -/
theorem target_inside (h : s.paged = true) (hpe : s.pe = true) (hin : 8 * v.toNat + 7 ≤ s.sys.idtr.limit.toNat)
    (ha : s.sys.idtr.base + BitVec.ofNat 32 (8 * v.toNat) = a) :
    s.target v =
      let d := s.descriptor a
      if ((span 8 a).all (s.mem.permitted .read) && d.present && !d.isSegment &&
          (d.type == 0x6 || d.type == 0xE)) = true then
        some (d.gsel, if d.type == 0xE then d.offset else d.offset &&& 0x0000FFFF)
      else none := by
  rw [State.target, if_neg (by simp [hpe]), gateAddr_eq, if_neg (Nat.not_lt.2 hin), ha, ← descValid_eq h]

theorem target_unreadable (h : s.paged = true) (hpe : s.pe = true)
    (ha : s.sys.idtr.base + BitVec.ofNat 32 (8 * v.toNat) = a)
    (hread : ∃ b ∈ span 8 a, s.mem.permitted .read b = false) : s.target v = none := by
  by_cases hout : s.sys.idtr.limit.toNat < 8 * v.toNat + 7
  · exact target_outside hpe hout
  have hall : (span 8 a).all (s.mem.permitted .read) = false := by simpa using hread
  rw [target_inside h hpe (Nat.not_lt.1 hout) ha, hall]
  rfl

end Lookup

section Gate

variable {s : State} {a : Word} {b0 b1 b2 b3 b4 b5 b6 b7 : Byte}

/-- The descriptor that eight bytes are (20_memory R133). -/
theorem descriptor_holds (h : s.paged = true) (hb : s.mem.holds a [b0, b1, b2, b3, b4, b5, b6, b7]) :
    s.descriptor a = decodeDescriptor (b3 ++ b2 ++ b1 ++ b0) (b7 ++ b6 ++ b5 ++ b4) := by
  have hread := List.all_eq_true.1 (Memory.holds_permitted (n := 4 + 4) hb rfl)
  have hbyte := fun (k : Nat) (hk : k < 8) => (Memory.holds_getElem hb hk).2
  have hup : ∀ k, a + BitVec.ofNat 32 4 + BitVec.ofNat 32 k = a + BitVec.ofNat 32 (4 + k) := fun k => by
    rw [BitVec.ofNat_add, BitVec.add_assoc]
  rw [span_add] at hread
  simp only [List.forall_mem_append] at hread
  rw [descriptor_paged h, show a + 4 = a + BitVec.ofNat 32 4 from rfl, Memory.val_permitted hread.1,
    Memory.val_permitted hread.2]
  simp only [hup, Nat.reduceAdd, hbyte 0 (by decide), hbyte 1 (by decide), hbyte 2 (by decide), hbyte 3 (by decide),
    hbyte 4 (by decide), hbyte 5 (by decide), hbyte 6 (by decide), hbyte 7 (by decide)]
  rfl

/-- The fields of a gate, from its bytes (20_memory R133). -/
theorem gate_fields :
    let d := decodeDescriptor (b3 ++ b2 ++ b1 ++ b0) (b7 ++ b6 ++ b5 ++ b4)
    d.present = b5.getLsbD 7 ∧ d.isSegment = b5.getLsbD 4 ∧ d.type.toNat = b5.toNat % 16 ∧ d.gsel = b3 ++ b2 ∧
      d.offset = b7 ++ b6 ++ b1 ++ b0 := by
  intro d
  have hseg : d.segReg 0 = segOfBytes 0 b0 b1 b2 b3 b4 b5 b6 b7 := segReg_decodeDescriptor 0 b0 b1 b2 b3 b4 b5 b6 b7
  have hacc : d.acc = b6.extractLsb' 4 4 ++ b5 := congrArg SegReg.acc hseg
  obtain ⟨hpresent, hsegment⟩ := present_isSegment_eq hseg
  have lt0 := b0.isLt
  have lt1 := b1.isLt
  have lt2 := b2.isLt
  have lt3 := b3.isLt
  have lt4 := b4.isLt
  have lt5 := b5.isLt
  have lt6 := b6.isLt
  have lt7 := b7.isLt
  refine ⟨hpresent, hsegment, ?_, BitVec.eq_of_toNat_eq ?_, BitVec.eq_of_toNat_eq ?_⟩
  · simp only [Descriptor.type, hacc, BitVec.extractLsb'_toNat, toNat_append_add, Nat.shiftRight_eq_div_pow]
    omega
  · simp only [d, decodeDescriptor, BitVec.extractLsb'_toNat, toNat_append_add, Nat.shiftRight_eq_div_pow]
    omega
  · simp only [d, decodeDescriptor, BitVec.extractLsb'_toNat, toNat_append_add, Nat.shiftRight_eq_div_pow]
    omega

/-- The offset of a 16-bit gate (60_exceptions R663). -/
theorem lowHalf_append : (b7 ++ b6 ++ b1 ++ b0 : Word) &&& 0x0000FFFF = (b1 ++ b0 : BitVec 16).setWidth 32 := by
  have hlow : (b7 ++ b6 ++ b1 ++ b0 : Word).setWidth 16 = b1 ++ b0 := by
    apply BitVec.eq_of_toNat_eq
    rw [BitVec.toNat_setWidth]
    simp only [toNat_append_add]
    have := b0.isLt
    have := b1.isLt
    omega
  exact (trunc_s16 _).trans (congrArg (BitVec.setWidth 32) hlow)

/-- A readable gate decides by its present bit, its class and its type (60_exceptions R663). -/
theorem target_holds {v : Byte} (h : s.paged = true) (hpe : s.pe = true)
    (hin : 8 * v.toNat + 7 ≤ s.sys.idtr.limit.toNat)
    (hb : s.mem.holds (s.sys.idtr.base + BitVec.ofNat 32 (8 * v.toNat)) [b0, b1, b2, b3, b4, b5, b6, b7]) :
    s.target v = if b5.getLsbD 7 = true ∧ b5.getLsbD 4 = false ∧ (b5.toNat % 16 = 0x6 ∨ b5.toNat % 16 = 0xE) then
      some (b3 ++ b2, if b5.toNat % 16 = 0xE then b7 ++ b6 ++ b1 ++ b0 else (b1 ++ b0 : BitVec 16).setWidth 32)
    else none := by
  rw [target_inside h hpe hin rfl, descriptor_holds h hb, Memory.holds_permitted (n := 8) hb rfl]
  obtain ⟨hpresent, hsegment, htype, hgsel, hoffset⟩ := gate_fields (b0 := b0) (b1 := b1) (b2 := b2) (b3 := b3)
    (b4 := b4) (b5 := b5) (b6 := b6) (b7 := b7)
  have htypeIs (k : BitVec 4) : (decodeDescriptor (b3 ++ b2 ++ b1 ++ b0) (b7 ++ b6 ++ b5 ++ b4)).type = k ↔
      b5.toNat % 16 = k.toNat := by rw [← BitVec.toNat_inj, htype]
  simp only [hpresent, hsegment, hgsel, hoffset, lowHalf_append, Bool.and_eq_true, Bool.or_eq_true, beq_iff_eq, htypeIs,
    Bool.not_eq_true', true_and, and_assoc]
  rfl

end Gate

/-! ### Delivery that fails (60_exceptions R665) -/

section Delivery

variable {s : State} {p : Pending}

/-- The state in which the lookup is made: the slot is empty (60_exceptions R660). -/
def State.taken (s : State) : State := s.setIntr { s.intr with pending := none }

theorem taken_paged (h : s.paged = true) : s.taken.paged = true := h

/-- A failed delivery puts the interrupt back into the slot (60_exceptions R665). -/
theorem deliveryFailed_intr {t : State} (ht : t.intr = s.taken.intr) (hp : s.intr.pending = some p) :
    (t.deliveryFailed p).intr = s.intr := by
  change { t.intr with pending := some p } = s.intr
  rw [ht, ← hp]
  rfl

/-- A halted core ends the run after delivery. -/
theorem step_of_deliver_halted (hrun : s.ctl.running = true) (hhalt : s.deliver.ctl.halted = true) :
    step s = .next { s.deliver with ctl := { s.deliver.ctl with running := false } } := by
  rw [step_running hrun, afterDelivery_halted hhalt]

/-- After a delivery that leaves the slot empty the step goes on as a step of its own. -/
theorem step_of_deliver_empty (hrun : s.ctl.running = true) (hrun' : s.deliver.ctl.running = true)
    (hempty : s.deliver.intr.pending = none) : step s = step s.deliver := by
  rw [step_running hrun, step_running hrun', deliver_empty hempty]

/-- The lookup fails: the core is halted and the interrupt kept. -/
theorem deliver_lost (h : s.paged = true) (hp : s.intr.pending = some p) (hhook : s.cfg.intrHook = false)
    (ht : s.taken.target p.vector = none) :
    ∃ m, s.mem.kept m ∧ s.deliver = (s.taken.setMem m).deliveryFailed p := by
  obtain ⟨m, hm, hkept, -⟩ := targetTouch_only (taken_paged h) p.vector
  refine ⟨m, hkept, ?_⟩
  rw [deliver_full hp, takeException_lost hhook ht]
  exact congrArg (State.deliveryFailed p) hm

end Delivery

/-- Settles O19: each of the failures is a lookup without a handler. -/
theorem deliveryFailureHalts : Obligations.DeliveryFailureHalts := by
  unfold Obligations.DeliveryFailureHalts
  intro s p h hp hhook hfail t
  have hlost : s.taken.target p.vector = none := by
    obtain ⟨hpe, hread⟩ | ⟨hpe, hout⟩ | ⟨hpe, hread⟩ | ⟨hpe, hin, b0, b1, b2, b3, b4, b5, b6, b7, hb, hno⟩ := hfail
    · exact target_real_unreadable (taken_paged h) hpe rfl hread
    · exact target_outside hpe hout
    · exact target_unreadable (taken_paged h) hpe rfl hread
    · refine (target_holds (taken_paged h) hpe hin hb).trans (if_neg ?_)
      rintro ⟨hpresent, hsystem, htype⟩
      obtain hno | hno | hno := hno
      · exact Bool.false_ne_true (hno.symm.trans hpresent)
      · exact Bool.false_ne_true (hsystem.symm.trans hno)
      · omega
  obtain ⟨m, hkept, ht⟩ := deliver_lost h hp hhook hlost
  have hstep := fun hrun => step_of_deliver_halted (s := s) hrun (by rw [ht]; rfl)
  dsimp only [t]
  rw [ht] at hstep ⊢
  exact ⟨deliveryFailed_intr rfl hp, rfl, rfl, rfl, rfl, rfl, rfl, rfl, rfl, rfl, hkept, hstep⟩

end Sys2Proof.Machine

/-! PROOFS. Delivery to a handler (60_exceptions R660, R661, R664, R665): the frame is pushed, then the load of CS decides
whether the core goes on at the handler or is halted. -/

namespace Sys2Proof.Machine

section Frame

variable {s : State} {p : Pending} {m : Memory}

/-- EFLAGS and the return address, in the order in which delivery pushes them (60_exceptions R661, R664). -/
def State.returnImage (s : State) (p : Pending) : List (BitVec s.segs.ss.size.width.bits) :=
  let w := s.segs.ss.size.width
  [s.flags.toWord.setWidth w.bits, (if p.restart then s.intr.savedCs.sel else s.segs.cs.sel).setWidth w.bits,
    (if p.restart then s.intr.savedEip else s.eip).setWidth w.bits]

/-- What delivery pushes: that, and an error code (60_exceptions R664). -/
def State.frame (s : State) (p : Pending) : List (BitVec s.segs.ss.size.width.bits) :=
  s.returnImage p ++ (if p.hasErr then [p.err.setWidth s.segs.ss.size.width.bits] else [])

/-- The state after the lookup, which left memory `m`. -/
theorem looked_paged (h : s.paged = true) (hw : m.wf = true) : (s.taken.setMem m).paged = true :=
  have hio : s.io = none := State.paged_io h
  State.paged_iff.2 ⟨hio, hw⟩

/-- The state with the frame pushed and IF and TF cleared; `m` is the memory after the lookup of the handler. -/
def State.framed (s : State) (p : Pending) (m : Memory) : State :=
  (pushList s.segs.ss.size.width (s.frame p) (s.taken.setMem m)).setFlags { s.flags with ifl := false, tf := false }

theorem framed_onlyData (h : s.paged = true) (hw : m.wf = true) :
    (s.taken.setFlags { s.flags with ifl := false, tf := false }).onlyData (s.framed p m) := by
  obtain ⟨hpushed, hwf⟩ := pushList_onlyData (s.frame p) (looked_paged h hw)
  exact ⟨congrArg (State.setFlags { s.flags with ifl := false, tf := false }) hpushed, hwf⟩

theorem framed_paged (h : s.paged = true) (hw : m.wf = true) : (s.framed p m).paged = true :=
  onlyData_paged (s := s.taken.setFlags { s.flags with ifl := false, tf := false }) h (framed_onlyData h hw)

theorem framed_segs (h : s.paged = true) (hw : m.wf = true) : (s.framed p m).segs = s.segs :=
  onlyData_segs (s := s.taken.setFlags { s.flags with ifl := false, tf := false }) (framed_onlyData h hw)

theorem framed_pushSeq (h : s.paged = true) (hw : m.wf = true) :
    pushSeq s.segs.ss s.segs.ss.size.width (s.frame p) s.regs m (s.framed p m).regs (s.framed p m).mem :=
  pushSeq_pushList (s.frame p) (looked_paged h hw)

/-- The transfer to the handler: the load of CS decides (60_exceptions R664, R665). -/
theorem enterHandler_eq (h : s.paged = true) (hw : m.wf = true) (sel : BitVec 16) (off : Word) :
    (s.taken.setMem m).enterHandler p (s.returnAddr p).1 (s.returnAddr p).2 sel off =
      let f := s.framed p m
      match f.segOutcome s.segs.cs sel with
      | some v => ((f.segLoadTouch sel).setSegs (s.segs.set .cs v)).setEip off
      | none => (f.segLoadTouch sel).deliveryFailed p := by
  have hpushes : (s.taken.setMem m).pushFrame p (s.returnAddr p).1 (s.returnAddr p).2 =
      pushList s.segs.ss.size.width (s.frame p) (s.taken.setMem m) := by
    unfold State.pushFrame State.frame State.returnImage State.returnAddr
    cases p.hasErr <;> cases p.restart <;> rfl
  obtain ⟨-, hflags⟩ := onlyData_leaves (pushList_onlyData (s.frame p) (looked_paged h hw))
  have hframed : (pushList s.segs.ss.size.width (s.frame p) (s.taken.setMem m)).setFlags
      (pushList s.segs.ss.size.width (s.frame p) (s.taken.setMem m)).flags.masked = s.framed p m := by
    rw [hflags]
    rfl
  have htouch : ((s.framed p m).segLoadTouch sel).segs = s.segs := by
    obtain ⟨m1, hm1, -⟩ := segLoadTouch_only (framed_paged (p := p) h hw) sel
    rw [hm1]
    exact framed_segs h hw
  unfold State.enterHandler
  cases ho : (s.framed p m).segOutcome s.segs.cs sel <;>
    simp only [hpushes, hframed, segLoad_eq_segOutcome (framed_paged h hw), framed_segs h hw, htouch, ho]

/-- The lookup succeeds: the frame is pushed and the load of CS decides. -/
theorem deliver_framed (h : s.paged = true) (hp : s.intr.pending = some p) (hhook : s.cfg.intrHook = false)
    {sel : BitVec 16} {off : Word} (ht : s.taken.target p.vector = some (sel, off)) :
    ∃ m, s.mem.kept m ∧ m.wf = true ∧ s.deliver =
      let f := s.framed p m
      match f.segOutcome s.segs.cs sel with
      | some v => ((f.segLoadTouch sel).setSegs (s.segs.set .cs v)).setEip off
      | none => (f.segLoadTouch sel).deliveryFailed p := by
  obtain ⟨m, hm, hkept, hw⟩ := targetTouch_only (taken_paged h) p.vector
  refine ⟨m, hkept, hw, ?_⟩
  rw [deliver_full hp, takeException_enter hhook ht, ← enterHandler_eq h hw]
  exact congrArg (State.enterHandler p _ _ sel off) hm

/-- In real mode the load of CS reads nothing and succeeds. -/
theorem deliver_real (h : s.paged = true) (hpe : s.pe = false) (hp : s.intr.pending = some p)
    (hhook : s.cfg.intrHook = false) {sel : BitVec 16} {off : Word}
    (ht : s.taken.target p.vector = some (sel, off)) :
    ∃ m, s.mem.kept m ∧ m.wf = true ∧ s.deliver = { s with
      regs := (s.framed p m).regs
      eip := off
      flags := { s.flags with ifl := false, tf := false }
      segs := s.segs.set .cs (s.segs.cs.inReal sel)
      intr := { s.intr with pending := none }
      mem := (s.framed p m).mem } := by
  obtain ⟨m, hkept, hw, ht⟩ := deliver_framed h hp hhook ht
  obtain ⟨hf, -⟩ := framed_onlyData (p := p) h hw
  have hfpe : (s.framed p m).pe = false := by
    rw [hf]
    exact hpe
  dsimp only at ht
  rw [segOutcome_real _ _ hfpe, segLoadTouch_real _ hfpe, hf] at ht
  exact ⟨m, hkept, hw, ht⟩

end Frame

/-- Settles O18: in real mode the load of CS reads nothing and succeeds. -/
theorem realModeDelivery : Obligations.RealModeDelivery := by
  unfold Obligations.RealModeDelivery
  intro s p o0 o1 s0 s1 h hpe hp hhook hb rcs rip w t
  obtain ⟨m, hkept, hw, ht⟩ := deliver_real h hpe hp hhook (target_real_holds (taken_paged h) hpe rfl hb)
  have hpushes := framed_pushSeq (p := p) h hw
  have hstep := fun hrun => step_of_deliver_empty (s := s) hrun (by rw [ht]; exact hrun) (by rw [ht])
  dsimp only [t]
  rw [ht] at hstep ⊢
  exact ⟨rfl, rfl, rfl, rfl, ⟨m, hkept, hpushes⟩, rfl, rfl, rfl, rfl, rfl, hstep⟩

/-- Settles O20: the gate is found, and the outcome of the load of CS after the pushes decides. -/
theorem gateDelivery : Obligations.GateDelivery := by
  unfold Obligations.GateDelivery
  intro s p b0 b1 b2 b3 b4 b5 b6 b7 h hpe hp hhook hin hb hpresent hsystem htype rcs rip w t
  obtain ⟨m, hkept, hw, ht⟩ := deliver_framed h hp hhook
    ((target_holds (taken_paged h) hpe hin hb).trans (if_pos ⟨hpresent, hsystem, htype⟩))
  have hpushes := framed_pushSeq (p := p) h hw
  obtain ⟨hf, -⟩ := framed_onlyData (p := p) h hw
  obtain ⟨m1, hm1, hkept1, -⟩ := segLoadTouch_only (framed_paged (p := p) h hw) (b3 ++ b2)
  have houtcome : (s.framed p m).segOutcome s.segs.cs (b3 ++ b2) =
      { s with mem := (s.framed p m).mem }.segOutcome s.segs.cs (b3 ++ b2) := by
    rw [hf]
    rfl
  dsimp only at ht
  rw [houtcome, hm1] at ht
  cases ho : { s with mem := (s.framed p m).mem }.segOutcome s.segs.cs (b3 ++ b2) with
  | some v =>
    rw [ho] at ht
    dsimp only at ht
    rw [hf] at ht
    have hstep := fun hrun => step_of_deliver_empty (s := s) hrun (by rw [ht]; exact hrun) (by rw [ht]; rfl)
    dsimp only [t]
    rw [ht] at hstep ⊢
    refine ⟨rfl, rfl, rfl, rfl, rfl, m, (s.framed p m).mem, hkept, hkept1, hpushes, ?_⟩
    rw [ho]
    exact ⟨rfl, rfl, rfl, rfl, hstep⟩
  | none =>
    rw [ho] at ht
    dsimp only at ht
    rw [hf] at ht
    have hstep := fun hrun => step_of_deliver_halted (s := s) hrun (by rw [ht]; rfl)
    dsimp only [t]
    rw [ht] at hstep ⊢
    refine ⟨rfl, rfl, rfl, rfl, rfl, m, (s.framed p m).mem, hkept, hkept1, hpushes, ?_⟩
    rw [ho]
    exact ⟨deliveryFailed_intr rfl hp, rfl, rfl, rfl, hstep⟩

end Sys2Proof.Machine

/-! PROOFS. Delivery with an interrupt hook (60_exceptions R660, R690, R691): what the hook answers decides; and the
default delivery is no matter of the launch parameters, one of which says that the hook is installed. -/

namespace Sys2Proof.Machine

/-! ### The launch parameters in the default delivery -/

section Launch

variable {s : State} {p : Pending} {c : Launch}

/-- The state under other launch parameters. -/
def State.underLaunch (c : Launch) (s : State) : State := { s with cfg := c }

variable (h : s.io = none)

include h

theorem memVal_underLaunch (w : Width) (a : Word) : (s.underLaunch c).memVal w a = s.memVal w a := by
  rw [memVal_paged h, memVal_paged (s := s.underLaunch c) h]
  rfl

theorem memOk_underLaunch (w : Width) (a : Word) : (s.underLaunch c).memOk w a = s.memOk w a := by
  rw [memOk_paged h, memOk_paged (s := s.underLaunch c) h]
  rfl

theorem memTouch_underLaunch (w : Width) (a : Word) :
    (s.underLaunch c).memTouch w a = (s.memTouch w a).underLaunch c ∧ (s.memTouch w a).io = none := by
  rw [memTouch_paged h, memTouch_paged (s := s.underLaunch c) h]
  exact ⟨rfl, h⟩

theorem push_underLaunch (w : Width) (v : BitVec w.bits) :
    (s.underLaunch c).push w v = (s.push w v).underLaunch c ∧ (s.push w v).io = none := by
  rw [push_paged h, push_paged (s := s.underLaunch c) h]
  exact ⟨rfl, h⟩

theorem descTouch_underLaunch (a : Word) :
    (s.underLaunch c).descTouch a = (s.descTouch a).underLaunch c ∧ (s.descTouch a).io = none := by
  rw [descTouch_paged h, descTouch_paged (s := s.underLaunch c) h]
  exact ⟨rfl, h⟩

theorem descriptor_underLaunch (a : Word) :
    (s.underLaunch c).descriptor a = s.descriptor a ∧ (s.underLaunch c).descValid a = s.descValid a := by
  obtain ⟨htouch, hio⟩ := memTouch_underLaunch (c := c) h .b32 a
  simp only [State.descriptor, State.descValid, htouch, memVal_underLaunch h, memOk_underLaunch h,
    memVal_underLaunch hio, memOk_underLaunch hio, and_self]

theorem target_underLaunch (v : Byte) :
    (s.underLaunch c).target v = s.target v ∧
      (s.underLaunch c).targetTouch v = (s.targetTouch v).underLaunch c ∧ (s.targetTouch v).io = none := by
  unfold State.target State.targetTouch
  rw [show (s.underLaunch c).pe = s.pe from rfl]
  split
  · obtain ⟨htouch, hio⟩ := memTouch_underLaunch (c := c) h .b16 (s.vectorAddr v)
    dsimp only
    rw [show (s.underLaunch c).vectorAddr v = s.vectorAddr v from rfl, htouch, memOk_underLaunch h, memVal_underLaunch h,
      memOk_underLaunch hio, memVal_underLaunch hio]
    exact ⟨rfl, memTouch_underLaunch hio .b16 _⟩
  · rw [show (s.underLaunch c).gateAddr v = s.gateAddr v from rfl]
    split
    · exact ⟨rfl, rfl, h⟩
    · next a _ =>
      obtain ⟨hdesc, hvalid⟩ := descriptor_underLaunch (c := c) h a
      exact ⟨by rw [hdesc, hvalid], descTouch_underLaunch h a⟩

theorem segLoad_underLaunch (old : SegReg) (sel : BitVec 16) :
    (s.underLaunch c).segLoad old sel = s.segLoad old sel ∧
      (s.underLaunch c).segLoadTouch sel = (s.segLoadTouch sel).underLaunch c := by
  unfold State.segLoad State.segLoadTouch
  rw [show (s.underLaunch c).pe = s.pe from rfl, show (s.underLaunch c).descAddr sel = s.descAddr sel from rfl]
  cases s.descAddr sel with
  | none => exact ⟨rfl, (apply_ite (State.underLaunch c) _ _ _).symm⟩
  | some a =>
    obtain ⟨hdesc, hvalid⟩ := descriptor_underLaunch (c := c) h a
    obtain ⟨htouch, -⟩ := descTouch_underLaunch (c := c) h a
    simp only [hdesc, hvalid, htouch, true_and]
    exact (apply_ite (State.underLaunch c) _ _ _).symm

theorem pushFrame_underLaunch (rcs : BitVec 16) (rip : Word) :
    (s.underLaunch c).pushFrame p rcs rip = (s.pushFrame p rcs rip).underLaunch c ∧
      (s.pushFrame p rcs rip).io = none := by
  obtain ⟨hflags, hio1⟩ := push_underLaunch (c := c) h s.ssz.width (s.flags.toWord.setWidth s.ssz.width.bits)
  obtain ⟨hsel, hio2⟩ := push_underLaunch (c := c) hio1 s.ssz.width (rcs.setWidth s.ssz.width.bits)
  obtain ⟨hoff, hio3⟩ := push_underLaunch (c := c) hio2 s.ssz.width (rip.setWidth s.ssz.width.bits)
  unfold State.pushFrame
  dsimp only
  rw [show (s.underLaunch c).ssz = s.ssz from rfl, show (s.underLaunch c).flags = s.flags from rfl, hflags, hsel, hoff]
  split
  · exact push_underLaunch hio3 s.ssz.width _
  · exact ⟨rfl, hio3⟩

theorem enterHandler_underLaunch (rcs tsel : BitVec 16) (rip toff : Word) :
    (s.underLaunch c).enterHandler p rcs rip tsel toff = (s.enterHandler p rcs rip tsel toff).underLaunch c := by
  obtain ⟨hframe, hio⟩ := pushFrame_underLaunch (p := p) (c := c) h rcs rip
  unfold State.enterHandler
  dsimp only
  rw [hframe, show ((s.pushFrame p rcs rip).underLaunch c).setFlags ((s.pushFrame p rcs rip).underLaunch c).flags.masked =
    ((s.pushFrame p rcs rip).setFlags (s.pushFrame p rcs rip).flags.masked).underLaunch c from rfl]
  generalize hf : (s.pushFrame p rcs rip).setFlags (s.pushFrame p rcs rip).flags.masked = f
  obtain ⟨hload, htouch⟩ := segLoad_underLaunch (c := c) (s := f) (hf ▸ hio) f.segs.cs tsel
  rw [htouch, show (f.underLaunch c).segs = f.segs from rfl, hload]
  cases f.segLoad f.segs.cs tsel <;> rfl

/-- The default delivery does not look at the launch parameters. -/
theorem vectorTo_underLaunch (ra : BitVec 16 × Word) :
    (s.underLaunch c).vectorTo p ra = (s.vectorTo p ra).underLaunch c := by
  obtain ⟨htarget, htouch, hio⟩ := target_underLaunch (c := c) h p.vector
  unfold State.vectorTo
  rw [htarget, htouch]
  dsimp only
  split
  · rfl
  · exact enterHandler_underLaunch hio _ _ _ _

end Launch

/-- The core with `p` pending and no interrupt hook installed. -/
def State.unhooked (p : Pending) (u : State) : State :=
  { u with intr := { u.intr with pending := some p }, cfg := { u.cfg with intrHook := false } }

/-- Without the hook the delivery is the default one. -/
theorem deliver_unhooked {u : State} {p : Pending} (h : u.io = none) (hempty : u.intr.pending = none) :
    (u.unhooked p).deliver = (u.vectorTo p (u.returnAddr p)).underLaunch { u.cfg with intrHook := false } := by
  have hslot : (u.unhooked p).setIntr { (u.unhooked p).intr with pending := none } =
      u.underLaunch { u.cfg with intrHook := false } := by
    rw [show { (u.unhooked p).intr with pending := none } = u.intr by rw [← hempty]; rfl]
    rfl
  rw [deliver_full rfl, takeException_plain rfl, hslot, vectorTo_underLaunch h]
  rfl

/-- Settles O21: the hook's answer decides; where it did not handle the interrupt, the default delivery goes on. -/
theorem hookedDelivery : Obligations.HookedDelivery := by
  unfold Obligations.HookedDelivery
  intro s p hp hhook asked r u address
  have haddress : s.returnAddr p = address := rfl
  have ht : s.deliver = if r.handled then (if r.moved then u else asked.hookReturn p u) else u.vectorTo p address :=
    (deliver_full hp).trans (takeException_hook hhook)
  have hreturn : asked.hookReturn p u = { u with
      segs := if p.restart then u.segs.set .cs s.intr.savedCs else u.segs
      eip := if p.restart then s.intr.savedEip else s.eip } := by
    unfold State.hookReturn State.returnAddr
    cases p.restart <;> rfl
  refine ⟨fun hh hm => ?_, fun hh hm => ?_, fun hh hempty hrun => ?_, fun hh => ?_, fun hio hh hra hempty => ?_⟩
  · rw [ht, hh, hm]
    rfl
  · rw [ht, hh, hm, ← hreturn]
    rfl
  · have hu : u.ctl.running = true := (resume_running asked r.state).trans hrun
    refine step_of_deliver_empty hrun ?_ hempty
    rw [ht, hh, hreturn]
    cases r.moved <;> exact hu
  · rw [ht, hh]
    rfl
  · have hu : u.io = none := by
      have hsome := resume_io asked r.state
      rw [show asked.io = none from hio] at hsome
      exact Option.isSome_eq_false_iff.1 hsome |> Option.isNone_iff_eq_none.1
    have hself : u.underLaunch s.cfg = u := by rw [← show u.cfg = s.cfg from resume_cfg asked r.state]; rfl
    have hplain : s.deliver = (u.vectorTo p address).underLaunch s.cfg := by
      rw [← vectorTo_underLaunch hu, hself, ht, hh]
      rfl
    have hunhooked := deliver_unhooked (p := p) hu hempty
    rw [show u.returnAddr p = address from hra] at hunhooked
    exact hplain.trans (congrArg (State.underLaunch s.cfg) hunhooked :).symm

end Sys2Proof.Machine

/-! PROOFS. IRET undoes delivery (60_exceptions R664, R668, 43_control_transfer R494): what is pushed on a stack that can be
read and written is read back from it, entry by entry, whatever is pushed after it. -/

namespace Sys2Proof.Machine

/-! ### The stack after a push -/

section Pushed

variable {s : State} {w : Width}

theorem segs_push (h : s.paged = true) (v : BitVec w.bits) : (s.push w v).segs = s.segs :=
  onlyData_segs (push_onlyData h v)

/-- Releasing what was pushed restores the registers (41_data_movement R330, R331). -/
theorem released_push (h : s.paged = true) (v : BitVec w.bits) : (s.push w v).released w.bytes = s.regs := by
  have hbelow : s.below w.bytes =
      (s.regs.rn s.ssz.width .n4 - BitVec.ofNat s.ssz.width.bits w.bytes).setWidth 32 := trunc_get_sub s.ssz s.regs .n4 _
  unfold State.released SegReg.releasedIn
  rw [segs_push h, push_regs h, State.withSp, Bank.withSp_eq, hbelow]
  unfold State.ssz
  cases s.segs.ss.size with
  | s16 =>
    simp only [setWidth16_low, Bank.rn_setRn, Bank.setRn_setRn, BitVec.sub_add_cancel]
    exact Bank.setRn_rn s.regs .s16 .n4
  | s32 =>
    simp only [BitVec.setWidth_eq, Bank.rn_setRn, Bank.setRn_setRn, BitVec.sub_add_cancel]
    exact Bank.setRn_rn s.regs .s32 .n4

/-- Releasing more than what was pushed (41_data_movement R330, R331). -/
theorem released_push_add (h : s.paged = true) (v : BitVec w.bits) (k : Nat) :
    (s.push w v).released (w.bytes + k) = s.released k := by
  rw [← released_released, released_push h]
  exact released_congr (s := s) (t := { s.push w v with regs := s.regs }) rfl
    (congrArg (fun b : Segs => b.ss.size) (segs_push h v)) k

/-- What lies above a push (41_data_movement R330, R331). -/
theorem above_push (h : s.paged = true) (v : BitVec w.bits) (k : Nat) :
    (s.push w v).above (w.bytes + k) = s.above k := by
  rw [← above_released, released_push h]
  exact above_congr (t := { s.push w v with regs := s.regs }) (u := s) rfl (congrArg Segs.ss (segs_push h v)) k

/-- PERM_R and PERM_W are bits of the permission nibble (10_state R64). -/
theorem Memory.attrAt_readWrite (m : Memory) (b : Word) : m.attrAt b &&& 0x03 = m.perms b &&& 0x03 := by
  rw [Memory.perms, BitVec.and_assoc]
  rfl

/-- A push changes no permission nibble but by VALID, so that what can be read and written stays so (20_memory R121). -/
theorem Memory.attrAt_store_readWrite {m : Memory} {a b : Word} {v : BitVec w.bits} (hw : m.wf = true)
    (hb : m.attrAt b &&& 0x03 = 0x03) : (m.store w a v).attrAt b &&& 0x03 = 0x03 := by
  have hvalid : ∀ x : Byte, (x ||| 0x08) &&& 0x03 = x &&& 0x03 := by decide
  rw [Memory.attrAt_readWrite] at hb ⊢
  obtain hp | hp := Memory.perms_writeAll (b := b) hw ((span w.bytes a).zip (leBytes w v)) <;> rw [Memory.store, hp]
  · exact hb
  · rw [hvalid, hb]

/-- A slot of the stack, `k` bytes below the stack pointer, all of whose bytes can be read and written. -/
def State.openBelow (s : State) (w : Width) (k : Nat) : Prop :=
  ∀ b ∈ span w.bytes (s.segs.ss.base + s.below k), s.mem.attrAt b &&& 0x03 = 0x03

theorem openBelow_push (h : s.paged = true) (v : BitVec w.bits) {k : Nat} (hk : s.openBelow w (w.bytes + k)) :
    (s.push w v).openBelow w k := by
  unfold State.openBelow
  rw [below_push h, segs_push h, push_paged (State.paged_io h)]
  exact fun b hb => Memory.attrAt_store_readWrite (State.paged_wf h) (hk b hb)

/-- What was pushed is on top (20_memory R119). -/
theorem stackAt_push_zero (h : s.paged = true) (v : BitVec w.bits) (hopen : s.openBelow w w.bytes) :
    (s.push w v).stackAt w 0 = v := by
  have hio := State.paged_io (onlyData_paged h (push_onlyData h v))
  rw [← top_stackAt hio, State.top, sp_push h, segVal_paged hio, State.lin, segs_push h, push_paged (State.paged_io h),
    pushOff_eq]
  exact readAfterWrite s.mem w _ v (State.paged_wf h) hopen

/-- A value is what its bytes read. -/
theorem Memory.val_congr {m m' : Memory} {a : Word} (hb : ∀ b ∈ span w.bytes a, m'.readByte b = m.readByte b) :
    m'.val w a = m.val w a := by
  cases w <;> simp only [span, List.forall_mem_cons] at hb <;> simp only [Memory.val, hb]

/-- Bytes of a 16-bit push and of the entries above it. -/
theorem slot16_ne (r : BitVec 16) {i j k : Nat} (hi : i < 2) (hj : j < 2) (hk : k < 4) :
    (r - BitVec.ofNat 16 2).setWidth 32 + BitVec.ofNat 32 j ≠
      (r + BitVec.ofNat 16 (k * 2)).setWidth 32 + BitVec.ofNat 32 i := by bv_omega

/-- Bytes of a 32-bit push and of the entries above it. -/
theorem slot32_ne (r : Word) {i j k : Nat} (hi : i < 4) (hj : j < 4) (hk : k < 4) :
    r - BitVec.ofNat 32 4 + BitVec.ofNat 32 j ≠ r + BitVec.ofNat 32 (k * 4) + BitVec.ofNat 32 i := by bv_omega

/-- The slot of a push is apart from the entries above it. -/
theorem below_notMem_above (hw : w = s.segs.ss.size.width) (a : Word) {k : Nat} (hk : k < 4) :
    ∀ b ∈ span w.bytes (a + s.above (k * w.bytes)), b ∉ span w.bytes (a + s.below w.bytes) := by
  intro b hb hb'
  obtain ⟨i, hi, rfl⟩ := mem_span.1 hb
  obtain ⟨j, hj, heq⟩ := mem_span.1 hb'
  rw [BitVec.add_assoc, BitVec.add_assoc] at heq
  replace heq := (BitVec.add_right_inj a).1 heq
  unfold State.below State.ssz State.above at heq
  subst hw
  cases hz : s.segs.ss.size with
  | s16 =>
    rw [hz] at hi hj heq
    rw [show s.regs.r4 = s.regs.get .n4 from rfl, trunc_get_sub] at heq
    exact slot16_ne _ hi hj hk heq
  | s32 =>
    rw [hz] at hi hj heq
    exact slot32_ne _ hi hj hk heq

/-- A push leaves the entries above it, up to four of the stack's width (41_data_movement R330). -/
theorem stackAt_push_succ (h : s.paged = true) (hw : w = s.segs.ss.size.width) (v : BitVec w.bits) {k : Nat}
    (hk : k < 4) : (s.push w v).stackAt w (w.bytes + k * w.bytes) = s.stackAt w (k * w.bytes) := by
  rw [State.stackAt, above_push h, segs_push h, push_paged (State.paged_io h), pushOff_eq]
  exact Memory.val_congr fun b hb =>
    Memory.readByte_store_of_notMem (State.paged_wf h) w _ v (below_notMem_above hw s.segs.ss.base hk b hb)

/-- Three values pushed are read back, the last one first. -/
theorem stack_three (h : s.paged = true) (hw : w = s.segs.ss.size.width) (x y z : BitVec w.bits)
    (hopen : ∀ k ∈ [1, 2, 3], s.openBelow w (k * w.bytes)) :
    let t := pushList w [x, y, z] s
    t.stackAt w 0 = z ∧ t.stackAt w w.bytes = y ∧ t.stackAt w (2 * w.bytes) = x ∧ t.released (3 * w.bytes) = s.regs := by
  have h1 := onlyData_paged h (push_onlyData h x)
  have h2 := onlyData_paged h1 (push_onlyData h1 y)
  have hw1 : w = (s.push w x).segs.ss.size.width := by rw [segs_push h]; exact hw
  have hw2 : w = ((s.push w x).push w y).segs.ss.size.width := by rw [segs_push h1]; exact hw1
  have hone : 1 * w.bytes = w.bytes := Nat.one_mul _
  have htwo : 2 * w.bytes = w.bytes + w.bytes := Nat.two_mul _
  have hthree : 3 * w.bytes = w.bytes + (w.bytes + w.bytes) := by omega
  simp only [List.forall_mem_cons, List.not_mem_nil, false_imp_iff, implies_true, and_true, hone, htwo, hthree] at hopen
  obtain ⟨hopen1, hopen2, hopen3⟩ := hopen
  have hx := stackAt_push_zero h x hopen1
  have hy := stackAt_push_zero h1 y (openBelow_push h x hopen2)
  have hz := stackAt_push_zero h2 z (openBelow_push h1 y (openBelow_push h x hopen3))
  have hundery := stackAt_push_succ h1 hw1 y (k := 0) (by decide)
  have hunderz0 := stackAt_push_succ h2 hw2 z (k := 0) (by decide)
  have hunderz1 := stackAt_push_succ h2 hw2 z (k := 1) (by decide)
  rw [Nat.zero_mul, Nat.add_zero] at hundery hunderz0
  rw [hone] at hunderz1
  refine ⟨hz, hunderz0.trans hy, ?_, ?_⟩
  · rw [htwo]
    exact hunderz1.trans (hundery.trans hx)
  · change (((s.push w x).push w y).push w z).released _ = _
    rw [hthree, released_push_add h2, released_push_add h1, released_push h]

/-- A stack entry is a matter of memory, registers and the stack segment. -/
theorem stackAt_congr {t : State} (hmem : t.mem = s.mem) (hregs : t.regs = s.regs) (hss : t.segs.ss = s.segs.ss)
    (w : Width) (k : Nat) : t.stackAt w k = s.stackAt w k := by
  rw [State.stackAt, hmem, hss, above_congr (congrArg Bank.r4 hregs) hss]
  rfl

/-- Where a value may have been pushed and then discarded, the stack is as it was (41_data_movement R330, R331). -/
theorem stack_discarded (h : s.paged = true) (hw : w = s.segs.ss.size.width) (c : Bool) (v : BitVec w.bits) {t : State}
    (hmem : t.mem = (if c then s.push w v else s).mem) (hss : t.segs.ss = s.segs.ss)
    (hregs : t.regs = if c then s.segs.ss.releasedIn (s.push w v).regs w.bytes else s.regs) :
    t.regs = s.regs ∧ ∀ k < 4, t.stackAt w (k * w.bytes) = s.stackAt w (k * w.bytes) := by
  cases c with
  | false => exact ⟨hregs, fun k _ => stackAt_congr hmem hregs hss w _⟩
  | true =>
    have hreleased : s.segs.ss.releasedIn (s.push w v).regs w.bytes = (s.push w v).released w.bytes := by
      rw [State.released, segs_push h]
    rw [if_pos rfl, hreleased] at hregs
    refine ⟨hregs.trans (released_push h v), fun k hk => ?_⟩
    rw [← stackAt_push_succ h hw v hk, stackAt_congr (s := { s.push w v with regs := (s.push w v).released w.bytes })
      hmem hregs (hss.trans (congrArg Segs.ss (segs_push h v).symm)), State.stackAt, above_released]
    rfl

end Pushed

/-! ### The frame of delivery -/

section Frame

variable {s t : State} {p : Pending} {m : Memory}

/-- The frame is on the stack once an error code is discarded, and below it the stack is as before delivery. -/
theorem framed_stack (h : s.paged = true) (hkept : s.mem.kept m) (hwf : m.wf = true)
    (hopen : ∀ k ∈ [1, 2, 3], s.openBelow s.segs.ss.size.width (k * s.segs.ss.size.width.bytes))
    (hmem : t.mem = (s.framed p m).mem) (hss : t.segs.ss = s.segs.ss)
    (hregs : t.regs = if p.hasErr then s.segs.ss.releasedIn (s.framed p m).regs s.segs.ss.size.width.bytes
      else (s.framed p m).regs) :
    let w := s.segs.ss.size.width
    t.stackAt w 0 = (if p.restart then s.intr.savedEip else s.eip).setWidth w.bits ∧
      t.stackAt w w.bytes = (if p.restart then s.intr.savedCs.sel else s.segs.cs.sel).setWidth w.bits ∧
      t.stackAt w (2 * w.bytes) = s.flags.toWord.setWidth w.bits ∧ t.released (3 * w.bytes) = s.regs := by
  intro w
  have hopen' : ∀ k ∈ [1, 2, 3], (s.taken.setMem m).openBelow w (k * w.bytes) := fun k hk b hb => by
    have hb' := hopen k hk b hb
    rw [Memory.attrAt_readWrite] at hb' ⊢
    rwa [State.setMem_mem, (hkept b (by simp)).2.2]
  have hbase := looked_paged h hwf
  have hdata := pushList_onlyData (s.returnImage p) hbase
  have hsegs : (pushList w (s.returnImage p) (s.taken.setMem m)).segs = s.segs :=
    onlyData_segs (s := s.taken.setMem m) hdata
  have hframed : pushList w (s.frame p) (s.taken.setMem m) =
      if p.hasErr then (pushList w (s.returnImage p) (s.taken.setMem m)).push w (p.err.setWidth w.bits)
      else pushList w (s.returnImage p) (s.taken.setMem m) := by
    unfold State.frame
    cases p.hasErr with
    | false => rw [if_neg Bool.false_ne_true, List.append_nil]; rfl
    | true => exact (push_pushList _ _).symm
  unfold State.framed at hmem hregs
  rw [hframed, State.setFlags_mem] at hmem
  rw [hframed, State.setFlags_regs] at hregs
  obtain ⟨h0, h1, h2, hreleased⟩ := stack_three hbase rfl _ _ _ hopen'
  obtain ⟨hregs', hentry⟩ := stack_discarded (t := t) (onlyData_paged hbase hdata) (by rw [hsegs]) p.hasErr
    (p.err.setWidth w.bits) hmem (hss.trans (congrArg Segs.ss hsegs.symm)) (by
      rw [hregs, hsegs]
      cases p.hasErr
      · rw [if_neg Bool.false_ne_true, if_neg Bool.false_ne_true, if_neg Bool.false_ne_true]
      · rw [if_pos rfl, if_pos rfl, if_pos rfl])
  have hzero := hentry 0 (by decide)
  have hone := hentry 1 (by decide)
  rw [Nat.zero_mul] at hzero
  rw [Nat.one_mul] at hone
  refine ⟨hzero.trans h0, hone.trans h1, (hentry 2 (by decide)).trans h2, ?_⟩
  exact (released_congr hregs' (congrArg SegReg.size (hss.trans (congrArg Segs.ss hsegs.symm))) _).trans hreleased

end Frame

/-! ### EFLAGS from its word -/

/-- The word determines the implemented bits (10_state R40, R41). -/
theorem Eflags.toWord_inj {f g : Eflags} (h : f.toWord = g.toWord) : f = g := by
  have hbit := fun k => congrArg (fun v : Word => v.getLsbD k) h
  simp only [Eflags.getLsbD_toWord] at hbit
  have hiopl : f.iopl = g.iopl := BitVec.eq_of_getLsbD_eq fun k hk => by
    interval_cases k
    · exact hbit 12
    · exact hbit 13
  cases f
  cases g
  simp only [Eflags.mk.injEq]
  exact ⟨hbit 0, hbit 2, hbit 4, hbit 6, hbit 7, hbit 8, hbit 9, hbit 10, hbit 11, hiopl, hbit 14⟩

/-- In real mode the image of EFLAGS, of 16 or 32 bits, restores them (41_data_movement R352). -/
theorem flagsWritten_image {s : State} (hpe : s.pe = false) (f : Eflags) (z : Sz) :
    s.flagsWritten ((f.toWord.setWidth z.width.bits).setWidth 32) = f.toWord := by
  rw [flagsWritten_eq, hpe]
  apply BitVec.eq_of_getLsbD_eq
  intro k hk
  have himage : k < 16 → ((f.toWord.setWidth z.width.bits).setWidth 32).getLsbD k = f.toWord.getLsbD k := by
    intro h16
    cases z <;> simp [hk, h16]
  rw [BitVec.getLsbD_or, BitVec.getLsbD_and, BitVec.getLsbD_and, BitVec.getLsbD_not, getLsbD_flagMask _ _ hk]
  by_cases h16 : k < 16
  · rw [himage h16, Eflags.getLsbD_toWord, Eflags.getLsbD_toWord]
    interval_cases k <;> simp
  · rw [Eflags.getLsbD_toWord, Eflags.getLsbD_toWord]
    interval_cases k <;> simp

/-- A selector as it was pushed. -/
theorem setWidth_sel (z : Sz) (v : BitVec 16) : (v.setWidth z.width.bits).setWidth 16 = v := by
  cases z with
  | s16 => exact (BitVec.setWidth_eq _).trans (BitVec.setWidth_eq _)
  | s32 => exact setWidth16_low v

/-- An offset as it was pushed, where it fits. -/
theorem setWidth_offset (z : Sz) (v : Word) (hv : z = .s16 → v.toNat < 65536) :
    (v.setWidth z.width.bits).setWidth 32 = v := by
  cases z with
  | s16 =>
    have hlt := hv rfl
    show (v.setWidth 16).setWidth 32 = v
    bv_omega
  | s32 => exact (BitVec.setWidth_eq _).trans (BitVec.setWidth_eq _)

/-- The base of a segment in real mode as a number (20_memory R130). -/
theorem toNat_realBase (sel : BitVec 16) : (BitVec.ofNat 32 (16 * sel.toNat)).toNat = 16 * sel.toNat := by
  have := sel.isLt
  rw [BitVec.toNat_ofNat]
  omega

/-- IRET in real mode, in a state `x` on whose stack the frame is (43_control_transfer R494). -/
theorem completes_iret_framed {s x : State} {p : Pending} {m : Memory} (h : s.paged = true) (hkept : s.mem.kept m)
    (hwf : m.wf = true)
    (hopen : ∀ k ∈ [1, 2, 3], s.openBelow s.segs.ss.size.width (k * s.segs.ss.size.width.bytes))
    (hfits : s.segs.ss.size = .s16 → (if p.restart then s.intr.savedEip else s.eip).toNat < 65536)
    (hx : x.paged = true) (hpe : x.pe = false) (hmem : x.mem = (s.framed p m).mem) (hss : x.segs.ss = s.segs.ss)
    (hregs : x.regs = if p.hasErr then s.segs.ss.releasedIn (s.framed p m).regs s.segs.ss.size.width.bytes
      else (s.framed p m).regs) :
    completes (match s.segs.ss.size with | .s16 => .iret | .s32 => .iretd) x fun u =>
      u.regs = s.regs ∧ u.flags = s.flags ∧ u.eip = (if p.restart then s.intr.savedEip else s.eip) ∧
        u.segs.cs.sel = (if p.restart then s.intr.savedCs.sel else s.segs.cs.sel) ∧
        u.segs.cs.base.toNat = 16 * u.segs.cs.sel.toNat := by
  obtain ⟨hoff, hsel, himage, hreleased⟩ := framed_stack h hkept hwf hopen hmem hss hregs
  have hiret : exec (match s.segs.ss.size with | .s16 => .iret | .s32 => .iretd) x =
      .next (x.interruptReturn s.segs.ss.size.width) := by
    cases s.segs.ss.size <;> rfl
  refine completes_mono (completes_far_loaded hx (transfersFar_interruptReturn hx hiret) (segOutcome_real _ _ hpe))
    fun u hu => ?_
  obtain ⟨-, hsegs, heip, -, huregs, huflags⟩ := hu
  rw [hoff, setWidth_offset _ _ hfits] at heip
  rw [hsel, setWidth_sel] at hsegs
  rw [himage, flagsWritten_image hpe] at huflags
  rw [hsegs]
  exact ⟨huregs.trans hreleased, Eflags.toWord_inj huflags, heip, rfl, toNat_realBase _⟩

/-- Settles O22: the frame is on the stack, below what the handler has discarded, and IRET takes it off. -/
theorem iretUndoesDelivery : Obligations.IretUndoesDelivery := by
  unfold Obligations.IretUndoesDelivery
  intro s p h hpe hhook hp hread hopen rip t hrip
  obtain ⟨m, hkept, hwf, ht⟩ := deliver_real h hpe hp hhook
    ((target_real (taken_paged h) hpe rfl).trans (if_pos (List.all_eq_true.2 hread)))
  have hframed := State.paged_wf (framed_paged (p := p) h hwf)
  have hio := State.paged_io h
  refine completes_iret_framed h hkept hwf hopen hrip (State.paged_iff.2 ?_) ?_ ?_ ?_ ?_ <;> dsimp only [t] <;> rw [ht]
  · exact ⟨hio, hframed⟩
  · exact hpe
  · rfl
  · rfl

end Sys2Proof.Machine

/-! PROOFS. Faults are precise (60_exceptions R650, R666; 00_scope R15) and CS is changed by far transfers only
(60_exceptions R670): one classification of what an instruction leaves. It runs to its end with the segment registers and
the pending slot as they were, or loads one segment register on its way, or raises after nothing but reads. -/

namespace Sys2Proof.Machine

/-! ### What keeps the segment registers and the pending slot -/

/-- The segment registers are `b`, the pending slot and its like are `c`, the paged memory answers accesses and no hook
replaces a transfer. No matter of the registers, EIP, EFLAGS, system registers, run control, prefixes, ports, memory and
draws. -/
def State.steady (b : Segs) (c : Intr) (s : State) : Prop :=
  s.io = none ∧ s.cfg.callJmpHook = false ∧ s.segs = b ∧ s.intr = c

namespace State.steady

variable {b : Segs} {c : Intr} {s : State}

/-! #### Accesses to memory -/

theorem memTouch {w : Width} {a : Word} (h : s.steady b c) : (s.memTouch w a).steady b c := by
  rw [memTouch_paged h.1]
  exact h

theorem memStore {w : Width} {a : Word} {v : BitVec w.bits} (h : s.steady b c) : (s.memStore w a v).steady b c := by
  rw [memStore_paged h.1]
  exact h

theorem segTouch {w : Width} {g : Seg} {off : Word} (h : s.steady b c) : (s.segTouch w g off).steady b c := h.memTouch

theorem segStore {w : Width} {g : Seg} {off : Word} {v : BitVec w.bits} (h : s.steady b c) :
    (s.segStore w g off v).steady b c := h.memStore

theorem placeTouch {w : Width} {p : Place} (h : s.steady b c) : (s.placeTouch w p).steady b c := by
  cases p with
  | reg r => exact h
  | mem g off => exact h.segTouch

theorem placeStore {w : Width} {p : Place} {v : BitVec w.bits} (h : s.steady b c) :
    (s.placeStore w p v).steady b c := by
  cases p with
  | reg r => exact h
  | mem g off => exact h.segStore

theorem rmTouch {w : Width} {rm : RM} (h : s.steady b c) : (s.rmTouch w rm).steady b c := h.placeTouch

theorem tableTouch {m : MemRef} (h : s.steady b c) : (s.tableTouch m).steady b c := placeTouch h.placeTouch

theorem push {w : Width} {v : BitVec w.bits} (h : s.steady b c) : (s.push w v).steady b c :=
  h.segStore (w := w) (g := .ss) (off := s.pushOff w) (v := v)

theorem popped {w : Width} (h : s.steady b c) : (s.popped w).steady b c := h.segTouch (w := w) (g := .ss) (off := s.sp)

theorem descTouch {a : Word} (h : s.steady b c) : (s.descTouch a).steady b c := h.memTouch.memTouch

theorem segLoadTouch {sel : BitVec 16} (h : s.steady b c) : (s.segLoadTouch sel).steady b c := by
  unfold State.segLoadTouch
  split
  · exact h
  · split
    · exact h
    · exact h.descTouch

theorem sysLoadTouch {sel : BitVec 16} (h : s.steady b c) : (s.sysLoadTouch sel).steady b c := by
  unfold State.sysLoadTouch
  split
  · exact h
  · split
    · exact h
    · exact h.descTouch

/-! #### Meanings that several instructions share -/

theorem repeated {stop : State → Bool} {body : State → State} (h : s.steady b c)
    (hb : ∀ u : State, u.steady b c → (body u).steady b c) : (s.repeated stop body).steady b c := by
  unfold State.repeated
  split
  · exact hb s h
  · exact repLoop_keeps (P := State.steady b c) (fun u hu _ => hb u hu) _ s h

theorem alu {op : BinOp} {f : AluForm} (h : s.steady b c) : (s.alu op f).steady b c := placeStore h.rmTouch

theorem unary {op : UnOp} {w : Width} {rm : RM} (h : s.steady b c) : (s.unary op w rm).steady b c :=
  placeStore h.rmTouch

theorem shift {op : ShiftOp} {w : Width} {rm : RM} {k : ShCount} (h : s.steady b c) :
    (s.shift op w rm k).steady b c := placeStore h.rmTouch

theorem doubleShift {op : (n : Nat) → BitVec n → BitVec n → Nat → Eflags → Nat → BitVec n × Eflags} {rm : RM}
    {r : Num8} {k : DShCount} (h : s.steady b c) : (s.doubleShift op rm r k).steady b c := placeStore h.rmTouch

theorem bitModify {op : (n : Nat) → BitVec n → BitVec n → BitVec n} {rm : RM} {i : BitIdx} (h : s.steady b c) :
    (s.bitModify op rm i).steady b c := placeStore h.placeTouch

theorem storeWord {rm : RM} {v : BitVec 16} (h : s.steady b c) : (s.storeWord rm v).steady b c := by
  cases rm with
  | reg r => exact h
  | mem m => exact h.segStore

theorem storeTable {table : Sys → TableReg} {m : MemRef} (h : s.steady b c) : (s.storeTable table m).steady b c :=
  h.placeStore.placeStore

theorem popReg {w : Width} {r : Num8} (h : s.steady b c) : (s.popReg w r).steady b c := h.popped

theorem pushAll {w : Width} (h : s.steady b c) : (s.pushAll w).steady b c :=
  h.push.push.push.push.push.push.push.push

theorem popAll {w : Width} (h : s.steady b c) : (s.popAll w).steady b c :=
  h.popReg.popReg.popReg.popped.popReg.popReg.popReg.popReg

theorem enterLevels {w : Width} (n : Nat) (h : s.steady b c) : (enterLevels w n s).steady b c := by
  induction n generalizing s with
  | zero => exact h
  | succ n ih => exact ih (push (segTouch h))

/-- Without a call/jump hook the transfer goes on (43_control_transfer R504). -/
theorem hooked {k : CallKind} {rm : RM} {u : State} (h : s.steady b c) (hu : u.steady b c) :
    ((s.hooked k rm).getD u).steady b c := by
  obtain ⟨-, hhook, -⟩ := h
  cases rm with
  | reg r => exact hu
  | mem m => simpa [State.hooked, hhook] using hu

/-! #### One element of a string instruction -/

theorem movsBody {w : Width} (h : s.steady b c) : (movsBody w s).steady b c := segStore h.segTouch

theorem cmpsBody {w : Width} (h : s.steady b c) : (cmpsBody w s).steady b c := segTouch h.segTouch

theorem scasBody {w : Width} (h : s.steady b c) : (scasBody w s).steady b c := h.segTouch

theorem lodsBody {w : Width} (h : s.steady b c) : (lodsBody w s).steady b c := h.segTouch

theorem stosBody {w : Width} (h : s.steady b c) : (stosBody w s).steady b c := h.segStore

theorem insBody {w : Width} (h : s.steady b c) : (insBody w s).steady b c :=
  segStore (s := s.portTouch w (s.regs.r16 .n2)) h

theorem outsBody {w : Width} (h : s.steady b c) : (outsBody w s).steady b c := h.segTouch

end State.steady

/-! ### Reads -/

/-- `u` comes from `s`, where no host code takes part, by reads alone: in a canonical memory only sticky bits differ
(20_memory R113). -/
def State.reads (s u : State) : Prop := u.steady s.segs s.intr ∧ (s.paged = true → s.onlyTouched u)

namespace State.reads

variable {s u : State}

theorem start (hio : s.io = none) (hhook : s.cfg.callJmpHook = false) : s.reads s :=
  ⟨⟨hio, hhook, rfl, rfl⟩, onlyTouched_refl⟩

theorem trans {t : State} (h : s.reads u) (ht : t.steady s.segs s.intr) (h' : u.paged = true → u.onlyTouched t) :
    s.reads t :=
  ⟨ht, fun hp => onlyTouched_trans (h.2 hp) (h' (onlyTouched_paged hp (h.2 hp)))⟩

theorem segTouch {w : Width} {g : Seg} {off : Word} (h : s.reads u) : s.reads (u.segTouch w g off) :=
  h.trans h.1.segTouch fun hp => segTouch_only hp w g off

theorem stackTouch {w : Width} {k : Nat} (h : s.reads u) : s.reads (u.stackTouch w k) := h.segTouch

theorem placeTouch {w : Width} {p : Place} (h : s.reads u) : s.reads (u.placeTouch w p) :=
  h.trans h.1.placeTouch fun hp => placeTouch_only hp w p

theorem rmTouch {w : Width} {rm : RM} (h : s.reads u) : s.reads (u.rmTouch w rm) := h.placeTouch

theorem farTouch {m : MemRef} (h : s.reads u) : s.reads (u.farTouch m) := placeTouch h.placeTouch

theorem segLoadTouch {sel : BitVec 16} (h : s.reads u) : s.reads (u.segLoadTouch sel) :=
  h.trans h.1.segLoadTouch fun hp => segLoadTouch_only hp sel

theorem sysLoadTouch {sel : BitVec 16} (h : s.reads u) : s.reads (u.sysLoadTouch sel) :=
  h.trans h.1.sysLoadTouch fun hp => sysLoadTouch_only hp sel

end State.reads

/-! ### How an instruction ends -/

/-- The segment register that the instruction loads where it does not fault (20_memory R130). -/
def loadedSeg : Instr → Option Seg
  | .movToSeg g _ | .popSeg g => some g
  | .lds _ _ => some .ds
  | .les _ _ => some .es
  | .lfs _ _ => some .fs
  | .lgs _ _ => some .gs
  | .lss _ _ => some .ss
  | .jmpFar _ | .jmpFarMem _ | .callFar _ | .callFarMem _ | .retf | .retfImm _ | .iret | .iretd => some .cs
  | _ => none

/-- What an instruction that starts in `s` can leave, `o` being the segment register it loads. -/
inductive State.Ends (s : State) (o : Option Seg) : State → Prop
  /-- It ran, and no segment register was loaded. -/
  | ran {u : State} (hu : u.steady s.segs s.intr) : s.Ends o u
  /-- It ran, and the segment register was loaded with `v`. -/
  | loaded {u : State} (g : Seg) (v : SegReg) (ho : o = some g) (hu : u.steady (s.segs.set g v) s.intr) : s.Ends o u
  /-- It raised after reads alone. -/
  | raised {u : State} (x : Exn) (hu : s.reads u) : s.Ends o (u.raise x)

namespace State.reads

variable {s u : State} {o : Option Seg}

/-- `LoadSeg` loads and goes on, or raises after reading the descriptor (20_memory R132, R136). -/
theorem loadSeg {g : Seg} {sel : BitVec 16} {k : State → State} (h : s.reads u)
    (hk : ∀ (t : State) (b : Segs), t.steady b s.intr → (k t).steady b s.intr) :
    s.Ends (some g) (loadSeg g sel u k) := by
  have htouch := h.segLoadTouch (sel := sel)
  cases hr : u.segLoad (u.segs.get g) sel with
  | none =>
    rw [loadSeg_none hr]
    exact .raised _ htouch
  | some v =>
    rw [loadSeg_some hr]
    obtain ⟨hio, hhook, hsegs, hintr⟩ := htouch.1
    exact .loaded g v rfl (hk _ _ ⟨hio, hhook, congrArg (Segs.set · g v) hsegs, hintr⟩)

/-! #### Checks, which come before anything else -/

theorem requireCpl0 {k : State → State} (h : s.reads s) (hk : s.Ends o (k s)) : s.Ends o (requireCpl0 s k) := by
  unfold Machine.requireCpl0
  split
  · exact .raised _ h
  · exact hk

theorem checkIopl {k : State → State} (h : s.reads s) (hk : (k s).steady s.segs s.intr) :
    s.Ends o (checkIopl s k) := by
  unfold Machine.checkIopl
  split
  · exact .raised _ h
  · exact .ran hk

theorem protectedOnly {k : State → State} (h : s.reads s) (hk : s.Ends o (k s)) : s.Ends o (protectedOnly s k) := by
  unfold Machine.protectedOnly
  split
  · exact hk
  · exact .raised _ h

/-! #### Loads of a segment register and far transfers -/

theorem loadFar {g : Seg} {r : Num8} {m : MemRef} (h : s.reads s) : s.Ends (some g) (s.loadFar g r m) :=
  h.farTouch.loadSeg fun _ _ ht => ht

theorem farJump {sel : BitVec 16} {off : Word} (h : s.reads u) : s.Ends (some .cs) (u.farJump sel off) :=
  h.loadSeg fun _ _ ht => ht

theorem farCall {w : Width} {sel : BitVec 16} {off : Word} (h : s.reads u) : s.Ends (some .cs) (u.farCall w sel off) := by
  unfold State.farCall
  exact h.loadSeg fun _ _ ht => ht.push.push

theorem farReturn {w : Width} {extra : Word} (h : s.reads s) : s.Ends (some .cs) (s.farReturn w extra) := by
  unfold State.farReturn
  exact h.stackTouch.stackTouch.loadSeg fun _ _ ht => ht

theorem interruptReturn {w : Width} (h : s.reads s) : s.Ends (some .cs) (s.interruptReturn w) := by
  unfold State.interruptReturn
  exact h.stackTouch.stackTouch.stackTouch.loadSeg fun _ _ ht => ht

/-! #### Instructions that raise in cases of their own -/

theorem divide {w : Width} {qr : Option (BitVec w.bits × BitVec w.bits)} (h : s.reads u) :
    s.Ends o (u.divide w qr) := by
  cases qr with
  | none => exact .raised _ h
  | some _ => exact .ran h.1

theorem execAam {ib : Byte} (h : s.reads s) : answers (s.Ends o) (execAam ib s) := by
  unfold Machine.execAam
  split
  · exact .raised _ h
  · exact .ran h.1

theorem execInto (h : s.reads s) : answers (s.Ends o) (execInto s) := by
  unfold Machine.execInto
  split
  · exact .raised _ h
  · exact .ran h.1

theorem execBound {r : Num8} {m : MemRef} (h : s.reads s) : answers (s.Ends o) (execBound r m s) := by
  unfold Machine.execBound
  dsimp only
  split
  · exact .raised _ (placeTouch h.placeTouch)
  · exact .ran (placeTouch h.placeTouch).1

theorem execLldt {rm : RM} (h : s.reads s) : answers (s.Ends o) (execLldt rm s) := by
  refine h.protectedOnly (h.requireCpl0 ?_)
  dsimp only
  split
  · exact .ran h.rmTouch.1
  · split
    · exact .ran h.rmTouch.sysLoadTouch.1
    · exact .raised _ h.rmTouch.sysLoadTouch

theorem execLtr {rm : RM} (h : s.reads s) : answers (s.Ends o) (execLtr rm s) := by
  refine h.protectedOnly (h.requireCpl0 ?_)
  dsimp only
  split
  · exact .raised _ h.rmTouch
  · split
    · exact .ran h.rmTouch.sysLoadTouch.1
    · exact .raised _ h.rmTouch.sysLoadTouch

theorem execRdmsr (h : s.reads s) : answers (s.Ends o) (execRdmsr s) := by
  refine h.requireCpl0 ?_
  dsimp only
  split
  · exact .ran h.1
  · exact .raised _ h

theorem execWrmsr (h : s.reads s) : answers (s.Ends o) (execWrmsr s) := by
  refine h.requireCpl0 ?_
  dsimp only
  split
  · exact .ran h.1
  · exact .raised _ h

/-! #### Instructions with forms of their own that run to their end -/

theorem execImul3 {r : Num8} {rm : RM} {v : ImulImm} (h : s.reads s) : answers (s.Ends o) (execImul3 r rm v s) := by
  cases v with
  | iz z => exact .ran h.1.rmTouch
  | ib v => exact .ran h.1.rmTouch

theorem execMov {f : MovForm} (h : s.reads s) : answers (s.Ends o) (execMov f s) := by
  cases f with
  | rmR w rm r => exact .ran h.1.placeStore
  | rRm w r rm => exact .ran h.1.rmTouch
  | ebIb rm v => exact .ran h.1.placeStore
  | evIz rm z => exact .ran h.1.placeStore
  | rIb r v => exact .ran h.1
  | rIz r z => exact .ran h.1
  | accOff w o => exact .ran h.1.segTouch
  | offAcc w o => exact .ran h.1.segStore

theorem execXchg {f : XchgForm} (h : s.reads s) : answers (s.Ends o) (execXchg f s) := by
  cases f with
  | rmR w rm r => exact .ran h.1.rmTouch.placeStore
  | acc r => exact .ran h.1

theorem execPush {f : PushForm} (h : s.reads s) : answers (s.Ends o) (execPush f s) := by
  cases f with
  | seg g => exact .ran h.1.push
  | reg r => exact .ran h.1.push
  | iz z => exact .ran h.1.push
  | ib v => exact .ran h.1.push
  | ev rm => exact .ran h.1.rmTouch.push

theorem execPop {f : PopForm} (h : s.reads s) : answers (s.Ends o) (execPop f s) := by
  cases f with
  | reg r => exact .ran h.1.popReg
  | ev rm => exact .ran h.1.popped.placeStore

theorem execEnter {size : BitVec 16} {level : Byte} (h : s.reads s) :
    answers (s.Ends o) (execEnter size level s) := by
  unfold Machine.execEnter
  dsimp only
  split
  · exact .ran h.1.push
  · exact .ran (State.steady.push (h.1.push.enterLevels _))

theorem execArpl {rm : RM} {r : Num8} (h : s.reads s) : answers (s.Ends o) (execArpl rm r s) := by
  refine h.protectedOnly ?_
  dsimp only
  split
  · exact .ran h.1.rmTouch.placeStore
  · exact .ran h.1.rmTouch

theorem execSmsw {rm : RM} (h : s.reads s) : answers (s.Ends o) (execSmsw rm s) := by
  cases rm with
  | reg r => exact .ran h.1
  | mem m => exact .ran h.1.segStore

/-- Every instruction: what raises does so before it writes (60_exceptions R666). -/
theorem exec (h : s.reads s) : ∀ i : Instr, answers (s.Ends (loadedSeg i)) (exec i s)
  | .pfxEs | .pfxCs | .pfxSs | .pfxDs | .pfxFs | .pfxGs => .ran h.1
  | .pfxOpSize | .pfxAdSize | .pfxLock | .pfxRepne | .pfxRep => .ran h.1
  | .add _ | .adc _ | .sbb _ | .sub _ | .or _ | .and _ | .xor _ => .ran h.1.alu
  | .cmp _ | .test _ => .ran h.1.rmTouch
  | .inc _ | .dec _ | .not _ _ | .neg _ _ => .ran h.1.unary
  | .mul _ _ | .imul _ _ | .imul2 _ _ => .ran h.1.rmTouch
  | .imul3 _ _ _ => h.execImul3
  | .div _ _ | .idiv _ _ => h.rmTouch.divide
  | .rol _ _ _ | .ror _ _ _ | .rcl _ _ _ | .rcr _ _ _ => .ran h.1.shift
  | .shl _ _ _ | .shr _ _ _ | .sar _ _ _ => .ran h.1.shift
  | .shld _ _ _ | .shrd _ _ _ => .ran h.1.doubleShift
  | .bt _ _ => .ran h.1.placeTouch
  | .bts _ _ | .btr _ _ | .btc _ _ => .ran h.1.bitModify
  | .bsf _ _ | .bsr _ _ => .ran h.1.rmTouch
  | .daa | .das | .aaa | .aas | .aad _ => .ran h.1
  | .aam _ => h.execAam
  | .clc | .stc | .cmc | .cld | .std | .sahf => .ran h.1
  | .mov _ => h.execMov
  | .movFromSeg _ _ => .ran h.1.storeWord
  | .movToSeg _ _ => h.rmTouch.loadSeg fun _ _ ht => ht
  | .movFromCr _ _ | .movFromDr _ _ | .movToCr _ _ | .movToDr _ _ => h.requireCpl0 (.ran h.1)
  | .movzx _ _ _ | .movsx _ _ _ => .ran h.1.rmTouch
  | .lea _ _ | .cbw | .cwde | .cwd | .cdq | .lahf => .ran h.1
  | .push _ => h.execPush
  | .pop _ => h.execPop
  | .popSeg _ => h.segTouch.loadSeg fun _ _ ht => ht
  | .pusha | .pushad => .ran h.1.pushAll
  | .popa | .popad => .ran h.1.popAll
  | .enter _ _ => h.execEnter
  | .leave => .ran (State.steady.popReg h.1)
  | .xchg _ => h.execXchg
  | .nop | .wait => .ran h.1
  | .xlat => .ran h.1.segTouch
  | .lds _ _ | .les _ _ | .lfs _ _ | .lgs _ _ | .lss _ _ => h.loadFar
  | .pushf | .pushfd => .ran h.1.push
  | .popf | .popfd => .ran h.1.popped
  | .seto _ | .setno _ | .setb _ | .setnb _ | .setz _ | .setnz _ | .setbe _ | .setnbe _ => .ran h.1.placeStore
  | .sets _ | .setns _ | .setp _ | .setnp _ | .setl _ | .setnl _ | .setle _ | .setnle _ => .ran h.1.placeStore
  | .jo _ | .jno _ | .jb _ | .jnb _ | .jz _ | .jnz _ | .jbe _ | .jnbe _ => .ran h.1
  | .js _ | .jns _ | .jp _ | .jnp _ | .jl _ | .jnl _ | .jle _ | .jnle _ => .ran h.1
  | .jmp _ | .jcxz _ | .loop _ | .loope _ | .loopne _ => .ran h.1
  | .jmpRm _ => .ran (h.1.hooked h.1.rmTouch)
  | .jmpFar _ => h.farJump
  | .jmpFarMem _ => h.farTouch.farJump
  | .call _ => .ran h.1.push
  | .callRm _ => .ran (h.1.hooked h.1.rmTouch.push)
  | .callFar _ => h.farCall
  | .callFarMem _ => h.farTouch.farCall
  | .ret | .retImm _ => .ran h.1.popped
  | .retf | .retfImm _ => h.farReturn
  | .iret | .iretd => h.interruptReturn
  | .int _ | .int3 | .ud _ => .raised _ h
  | .into => h.execInto
  | .bound _ _ => h.execBound
  | .movsb | .movsw | .movsd => .ran (h.1.repeated fun _ => State.steady.movsBody)
  | .cmpsb | .cmpsw | .cmpsd => .ran (h.1.repeated fun _ => State.steady.cmpsBody)
  | .scasb | .scasw | .scasd => .ran (h.1.repeated fun _ => State.steady.scasBody)
  | .lodsb | .lodsw | .lodsd => .ran (h.1.repeated fun _ => State.steady.lodsBody)
  | .stosb | .stosw | .stosd => .ran (h.1.repeated fun _ => State.steady.stosBody)
  | .insb | .insw | .insd => h.checkIopl (h.1.repeated fun _ => State.steady.insBody)
  | .outsb | .outsw | .outsd => h.checkIopl (h.1.repeated fun _ => State.steady.outsBody)
  | .inp _ _ | .outp _ _ | .cli | .sti => h.checkIopl h.1
  | .hlt | .clts => h.requireCpl0 (.ran h.1)
  | .lgdt _ | .lidt _ => h.requireCpl0 (.ran h.1.tableTouch)
  | .lmsw _ => h.requireCpl0 (.ran h.1.rmTouch)
  | .rdmsr => h.execRdmsr
  | .wrmsr => h.execWrmsr
  | .arpl _ _ => h.execArpl
  | .sldt _ | .str _ => h.protectedOnly (.ran h.1.storeWord)
  | .lldt _ => h.execLldt
  | .ltr _ => h.execLtr
  | .sgdt _ | .sidt _ => .ran h.1.storeTable
  | .smsw _ => h.execSmsw

end State.reads

/-! ### The statements -/

/-- A load of another segment register leaves CS alone (20_memory R130). -/
theorem Segs.set_cs_of_ne {g : Seg} (hg : g ≠ .cs) (b : Segs) (v : SegReg) : (b.set g v).cs = b.cs := by
  cases g with
  | cs => exact absurd rfl hg
  | es | ss | ds | fs | gs => rfl

/-- Settles O13: of the three ways to end, only a load can change a segment register, and none that is left loads CS. -/
theorem onlyFarTransfersLoadCs : Obligations.OnlyFarTransfersLoadCs := by
  unfold Obligations.OnlyFarTransfersLoadCs
  intro i s t hhook hio ht hmov hpop hfar
  cases answers_next ((State.reads.start hio hhook).exec i) ht with
  | ran hu =>
    obtain ⟨-, -, hsegs, -⟩ := hu
    rw [hsegs]
  | loaded g v hg hu =>
    obtain ⟨-, -, hsegs, -⟩ := hu
    rw [hsegs]
    refine Segs.set_cs_of_ne ?_ _ _
    rintro rfl
    cases i with
    | movToSeg g rm => exact hmov rm (congrArg (Instr.movToSeg · rm) (Option.some.inj hg))
    | popSeg g => exact hpop (congrArg Instr.popSeg (Option.some.inj hg))
    | jmpFar | jmpFarMem | callFar | callFarMem | retf | retfImm | iret | iretd => exact hfar
    | _ => cases hg
  | raised x hu =>
    obtain ⟨⟨-, -, hsegs, -⟩, -⟩ := hu
    exact congrArg Segs.cs hsegs

/-- Settles O15: what ran has the slot as it was, empty, and what raised did so after reads alone. -/
theorem everyFaultIsPrecise : Obligations.EveryFaultIsPrecise := by
  unfold Obligations.EveryFaultIsPrecise
  intro i s t p h hhook hempty ht hp _
  cases answers_next ((State.reads.start (State.paged_io h) hhook).exec i) ht with
  | ran hu =>
    obtain ⟨-, -, -, hintr⟩ := hu
    simp [hintr, hempty] at hp
  | loaded g v _ hu =>
    obtain ⟨-, -, -, hintr⟩ := hu
    simp [hintr, hempty] at hp
  | raised x hu =>
    have hraised := raised_of_onlyTouched (hu.2 h) x
    suffices hx : x.pending = p from hx ▸ hraised
    obtain ⟨-, -, -, -, -, -, -, -, -, hpending⟩ := hraised
    rw [hempty, hp] at hpending
    exact (Option.some.inj hpending).symm

end Sys2Proof.Machine
